-- ==== Sys2Proof/Word.lean ====
section
/-! DEFINITION. The word types of the SDC block: bytes, 32-bit registers, 7-bit bus addresses, binary64 encodings. -/

namespace Sys2Proof

/-- A byte is 8 bits, bit 0 the least significant (00_scope.md R14). -/
abbrev Byte := BitVec 8

/-- Every register of the block is 32 bits wide (10_state.md R30). -/
abbrev Word := BitVec 32

/-- A device address on the sensor bus is 7 bits (20_memory.md R90). -/
abbrev BusAddr := BitVec 7

/-- The 64-bit IEEE 754 binary64 encoding of a value (00_scope.md R16): sign bit 63, exponent 62:52, fraction 51:0. -/
abbrev F64 := BitVec 64

end Sys2Proof
end

