-- ==== Sys2Proof/Config.lean ====
section
/-! DEFINITION. What an instance of the block fixes (00_scope.md section 4, R12) and the values the spec leaves free. Every
constant here has no body: nothing can be proved of its value, so a claim holds for every instance (log entries 8, 10, 11, 12). -/

namespace Sys2Proof

/-- How a coefficient times a square associates (44_compensation.md R244). -/
inductive SquareOrder where
  /-- `k ⊗ (v ⊗ v)`, the default. -/
  | squareFirst
  /-- `(k ⊗ v) ⊗ v`. -/
  | leftToRight
  deriving DecidableEq, Repr, Inhabited

/-- The channels that a magnetometer command byte enables (00_scope.md R13). -/
structure AxisMask where
  x : Bool
  y : Bool
  z : Bool
  t : Bool
  deriving DecidableEq, Repr, Inhabited

namespace Config

/-- BASE bits 31:8; bits 7:0 are zero, since BASE is a multiple of 0x100 (20_memory.md R80). -/
opaque basePage : BitVec 24

/-- BASE: where the host sees the register window (00_scope.md section 4). -/
def base : Word := basePage ++ 0x00#8

/-- MAG_BUS_ADDR, the magnetometer's bus address (00_scope.md section 4). -/
opaque magBusAddr : BusAddr

/-- BARO_BUS_ADDR, the barometer's bus address (00_scope.md section 4). -/
opaque baroBusAddr : BusAddr

/-- MAG_CMD_START, the "start single measurement" byte (30_encoding.md R120). -/
opaque magCmdStart : Byte

/-- MAG_CMD_READ, the "read measurement" byte (30_encoding.md R121). -/
opaque magCmdRead : Byte

/-- The axis mask that a magnetometer command byte selects. "The bit layout of the mask is not in the source" (00_scope.md
R13), so nothing is known of it but what the instance's author states (log entry 9). -/
opaque axisMaskOf : Byte → AxisMask

/-- BARO_REG_CTRL, the barometer's control register number (43_barometer.md R200). -/
opaque baroRegCtrl : Byte

/-- BARO_CTRL_VALUE, the byte written to the control register (43_barometer.md R200). -/
opaque baroCtrlValue : Byte

/-- BARO_REG_CONFIG, the barometer's config register number (43_barometer.md R200). -/
opaque baroRegConfig : Byte

/-- BARO_CONFIG_VALUE, the byte written to the config register (43_barometer.md R200). -/
opaque baroConfigValue : Byte

/-- BARO_REG_CALIB, the calibration base register (30_encoding.md R123). -/
opaque baroRegCalib : Byte

/-- BARO_REG_DATA, the first register of the data block (30_encoding.md R124). -/
opaque baroRegData : Byte

/-- SQUARE_ORDER (44_compensation.md R244). -/
opaque squareOrder : SquareOrder

/-- The free part of POW_F64 (44_compensation.md R247): `Machine.powF64` keeps properties (a) to
(c) and takes the rest from here. -/
opaque powRaw : F64 → F64 → BitVec 64

/-- The free bits (sign and payload) of a NaN that an operation on the two operands makes (log entry 12). -/
opaque nanRaw : F64 → F64 → BitVec 52

/-- T_SETTLE, the settling interval the host must wait (70_reset_and_hazards.md R300); the block never reads it (log entry 17). -/
opaque tSettle : Nat

end Config

end Sys2Proof
end

