-- ==== Sys2Proof/Syntax.lean ====
section
/-! DEFINITION. The twelve commands of the block, one constructor per row of spec/opcode_table.json. A command word has no
operand field (30_encoding.md R110, R118), so no constructor has an argument. -/

namespace Sys2Proof

/-- The commands of 30_encoding.md R112, in the order of the opcode table. -/
inductive Instr where
  | nop
  | decBeu16
  | decBes16
  | decLeu16
  | decLes16
  | decU20
  | magStart
  | magRead
  | baroConfigure
  | baroLoadCal
  | baroRead
  | baroCompensate
  deriving DecidableEq, Repr

end Sys2Proof
end

