-- ==== Sys2Proof/WellFormed.lean ====
section
/-! DEFINITION. The checks of form: of a command, of a host access and of an instance of the block. -/

namespace Sys2Proof

/-- A command has no operand field, so every constructor is a well-formed command (30_encoding.md R110, R111, R118). -/
def Instr.wf : Instr → Bool
  | .nop => true
  | .decBeu16 => true
  | .decBes16 => true
  | .decLeu16 => true
  | .decLes16 => true
  | .decU20 => true
  | .magStart => true
  | .magRead => true
  | .baroConfigure => true
  | .baroLoadCal => true
  | .baroRead => true
  | .baroCompensate => true

/-- Only aligned 32-bit accesses are defined (20_memory.md R81); `bytes` is the width of the access. -/
def accessShapeOk (off : Word) (bytes : Nat) : Bool :=
  bytes == 4 && off.toNat % 4 == 0

/-- The host reaches the block at offsets in 0x000 to 0x0FC (20_memory.md R80); `off` is the address less BASE. -/
def accessInWindow (off : Word) : Bool :=
  off.toNat ≤ 0xFC

/-- "BASE: 32-bit address, multiple of 0x100" (00_scope.md section 4, 20_memory.md R80). -/
def baseAligned (base : Word) : Bool :=
  base.toNat % 0x100 == 0

/-- The mask that R13 asks for: "exactly the X, Y and Z channels and not the temperature channel". -/
def AxisMask.xyz : AxisMask := ⟨true, true, true, false⟩

/-- The frame length that a mask gives: "1 status byte + 2 bytes per enabled axis" (00_scope.md R13). -/
def AxisMask.frameLen (m : AxisMask) : Nat :=
  1 + 2 * (m.x.toNat + m.y.toNat + m.z.toNat + m.t.toNat)

/-- What the author of an instance states about it beyond the parameter values: the masks that MAG_CMD_START and MAG_CMD_READ
select (00_scope.md R13). -/
structure InstancePremise where
  startMask : AxisMask
  readMask  : AxisMask
  deriving DecidableEq, Repr

/-- An instance is well formed only if both magnetometer command bytes select the same mask, which enables exactly X, Y and Z
(00_scope.md R13). -/
def InstancePremise.wf (p : InstancePremise) : Bool :=
  p.startMask == p.readMask && p.startMask == AxisMask.xyz

end Sys2Proof
end

