-- ==== Sys2Proof/Decode.lean ====
section
/-! DEFINITION. The decoder of command words, total and rejecting by name, and the encoder (30_encoding.md R110 to R115). -/

namespace Sys2Proof

/-- Why a command word is illegal (30_encoding.md R114). -/
inductive DecodeError where
  /-- RSV ≠ 0, whatever the opcode. -/
  | reservedBits
  /-- RSV = 0 and the opcode is none of the twelve. -/
  | unassignedOpcode
  deriving DecidableEq, Repr

/-- The reserved field, bits 31:8 (30_encoding.md R110). -/
def rsvField (w : Word) : BitVec 24 := w.extractLsb' 8 24

/-- The opcode field, bits 7:0 (30_encoding.md R110). -/
def opcField (w : Word) : BitVec 8 := w.extractLsb' 0 8

/-- The opcode map of 30_encoding.md R112. -/
def decodeOpcode (opc : BitVec 8) : Except DecodeError Instr :=
  match opc with
  | 0x00#8 => .ok .nop
  | 0x01#8 => .ok .decBeu16
  | 0x02#8 => .ok .decBes16
  | 0x03#8 => .ok .decLeu16
  | 0x04#8 => .ok .decLes16
  | 0x05#8 => .ok .decU20
  | 0x10#8 => .ok .magStart
  | 0x11#8 => .ok .magRead
  | 0x20#8 => .ok .baroConfigure
  | 0x21#8 => .ok .baroLoadCal
  | 0x22#8 => .ok .baroRead
  | 0x23#8 => .ok .baroCompensate
  | _ => .error .unassignedOpcode

/-- A word is legal exactly when RSV = 0 and OPC is one of the twelve values (30_encoding.md R112, R114, 40_control.md R144). -/
def decode (w : Word) : Except DecodeError Instr :=
  if rsvField w = 0 then decodeOpcode (opcField w) else .error .reservedBits

/-- The opcode byte of a command (30_encoding.md R112). -/
def opcodeOf : Instr → BitVec 8
  | .nop => 0x00#8
  | .decBeu16 => 0x01#8
  | .decBes16 => 0x02#8
  | .decLeu16 => 0x03#8
  | .decLes16 => 0x04#8
  | .decU20 => 0x05#8
  | .magStart => 0x10#8
  | .magRead => 0x11#8
  | .baroConfigure => 0x20#8
  | .baroLoadCal => 0x21#8
  | .baroRead => 0x22#8
  | .baroCompensate => 0x23#8

/-- The command word of a command, `zext_32(OPC)` (30_encoding.md R112). -/
def encode (i : Instr) : Word := (opcodeOf i).setWidth 32

/-- The command that the decoder reads from a table word of `nbits` bits, every bit above them 0. A command is one 32-bit
register value, not bytes in memory, so there is no byte order to apply (30_encoding.md R111, 20_memory.md R86). -/
def decodeTableWord (nbits w : Nat) : Option Instr :=
  match decode (BitVec.ofNat 32 (w % 2 ^ nbits)) with
  | .ok i => some i
  | .error _ => none

end Sys2Proof
end

