-- ==== Sys2Proof/Machine/Float64.lean ====
section
/-! DEFINITION. IEEE 754 binary64 arithmetic, each operation rounded once to nearest, ties to even (00_scope.md R16). Every
finite binary64 is an integer number of units of 2^-1074, so each operation is exact integer arithmetic in that unit and
then ONE rounding. The rules of IEEE 754 that R16 names and does not restate are in log entry 13. -/

namespace Sys2Proof.Machine

/-- The number of units of 2^-1074 in 1.0. -/
abbrev oneUnits : Nat := 2 ^ 1074

/-- The encoding of +infinity, without the sign bit; every finite encoding is below it. -/
abbrev infBits : Nat := 2047 * 2 ^ 52

/-- The biased exponent field, bits 62:52. -/
def expField (x : F64) : Nat := (x.extractLsb' 52 11).toNat

/-- The fraction field, bits 51:0. -/
def fracField (x : F64) : Nat := (x.extractLsb' 0 52).toNat

/-- The encoding without its sign bit, bits 62:0. -/
def magBits (x : F64) : Nat := (x.extractLsb' 0 63).toNat

/-- `x` is a NaN. -/
def isNaN (x : F64) : Bool := infBits < magBits x

/-- `x` is an infinity. -/
def isInf (x : F64) : Bool := magBits x == infBits

/-- `x` is neither a NaN nor an infinity. -/
def isFinite (x : F64) : Bool := magBits x < infBits

/-- The magnitude of the finite value whose encoding without sign is `bits`, in units of 2^-1074. -/
def unitsOfBits (bits : Nat) : Nat :=
  if bits < 2 ^ 52 then bits else (2 ^ 52 + bits % 2 ^ 52) * 2 ^ (bits / 2 ^ 52 - 1)

/-- The magnitude of a finite binary64, in units of 2^-1074. -/
def magUnits (x : F64) : Nat := unitsOfBits (magBits x)

/-- The value of a finite binary64, in units of 2^-1074. -/
def toUnits (x : F64) : Int := if x.msb then -(magUnits x : Int) else magUnits x

/-- `num / den` rounded to the nearest integer, ties to even. -/
def roundDiv (num den : Nat) : Nat :=
  let q := num / den
  let r := num % den
  if 2 * r < den then q else if den < 2 * r then q + 1 else q + q % 2

/-- The encoding without sign of the binary64 nearest to `num / den` units of 2^-1074, ties to even; infinity beyond the
largest finite value. `k` is how many binary places the last bit of the result lies above the unit. -/
def roundBits (num den : Nat) : Nat :=
  let k := (num / den).log2 - 52
  let bits := k * 2 ^ 52 + roundDiv num (den * 2 ^ k)
  if bits < infBits then bits else infBits

/-- The encoding with a sign. -/
def packSign (neg : Bool) (bits : Nat) : F64 := BitVec.ofNat 64 (bits + if neg then 2 ^ 63 else 0)

/-- +0.0. -/
def fZero : F64 := 0x0000000000000000#64

/-- 1.0. -/
def fOne : F64 := 0x3FF0000000000000#64

/-- The quiet NaN that an operation on `a` and `b` makes: its sign and payload are free (log entry 12). -/
def mkNaN (a b : F64) : F64 :=
  (Config.nanRaw a b).extractLsb' 51 1 ++ (0xFFF#12 ++ (Config.nanRaw a b).extractLsb' 0 51)

/-- `f64(n)`, the conversion of an integer; exact for |n| < 2^53 (00_scope.md R16). -/
def f64 (n : Int) : F64 := packSign (n < 0) (roundBits (n.natAbs * oneUnits) 1)

/-- The binary64 nearest to the decimal `num / den` (00_scope.md R16, 44_compensation.md R231). -/
def f64Lit (num den : Nat) : F64 := packSign false (roundBits (num * oneUnits) den)

/-- `-x`: the sign bit inverted. -/
def fNeg (x : F64) : F64 := x ^^^ 0x8000000000000000#64

/-- `a ⊕ b` (00_scope.md R16). An exact zero sum is -0.0 only when both operands are negative. -/
def fAdd (a b : F64) : F64 :=
  if isNaN a || isNaN b then mkNaN a b
  else if isInf a then (if isInf b && a.msb != b.msb then mkNaN a b else a)
  else if isInf b then b
  else
    let n := toUnits a + toUnits b
    packSign (if n = 0 then a.msb && b.msb else n < 0) (roundBits n.natAbs 1)

/-- `a ⊖ b` (00_scope.md R16). -/
def fSub (a b : F64) : F64 :=
  if isNaN a || isNaN b then mkNaN a b else fAdd a (fNeg b)

/-- `a ⊗ b` (00_scope.md R16). -/
def fMul (a b : F64) : F64 :=
  if isNaN a || isNaN b then mkNaN a b
  else if isInf a || isInf b then
    (if magBits a = 0 ∨ magBits b = 0 then mkNaN a b else packSign (a.msb != b.msb) infBits)
  else packSign (a.msb != b.msb) (roundBits (magUnits a * magUnits b) oneUnits)

/-- `a ⊘ b` (00_scope.md R16). -/
def fDiv (a b : F64) : F64 :=
  if isNaN a || isNaN b then mkNaN a b
  else if isInf a then (if isInf b then mkNaN a b else packSign (a.msb != b.msb) infBits)
  else if isInf b then packSign (a.msb != b.msb) 0
  else if magBits b = 0 then (if magBits a = 0 then mkNaN a b else packSign (a.msb != b.msb) infBits)
  else packSign (a.msb != b.msb) (roundBits (magUnits a * oneUnits) (magUnits b))

/-- The bits of an integer square root below weight `2 ^ k`, from the highest down: the largest `r' ≥ r` with `r' ^ 2 ≤ n`
that differs from `r` in those bits only. -/
def isqrtFrom : Nat → Nat → Nat → Nat
  | 0, _, r => r
  | k + 1, n, r => isqrtFrom k n (if (r + 2 ^ k) * (r + 2 ^ k) ≤ n then r + 2 ^ k else r)

/-- The integer part of the square root of `n`. -/
def isqrt (n : Nat) : Nat := isqrtFrom (n.log2 / 2 + 1) n 0

/-- The encoding of the binary64 nearest to the square root of `mag` units of 2^-1074. The root is an irrational number of
units or an integer `s`; where it lies strictly between `s` and `s + 1`, the half-way point rounds as the root does, since
every root has far more bits than a binary64 keeps. -/
def sqrtBits (mag : Nat) : Nat :=
  let n := mag * oneUnits
  let s := isqrt n
  roundBits (if s * s = n then 2 * s else 2 * s + 1) 2

/-- `sqrt64(a)`, the correctly rounded square root (00_scope.md R16). -/
def fSqrt (a : F64) : F64 :=
  if isNaN a then mkNaN a a
  else if magBits a = 0 then a
  else if a.msb then mkNaN a a
  else if isInf a then a
  else packSign false (sqrtBits (magUnits a))

/-- The position of a non-NaN value in the order of binary64 values, infinities included. -/
def orderKey (x : F64) : Int := if x.msb then -(magBits x : Int) else magBits x

/-- `a =f b`, the IEEE comparison, so that `+0.0 =f -0.0` (00_scope.md R16). -/
def fEq (a b : F64) : Bool := !isNaN a && !isNaN b && orderKey a == orderKey b

/-- `a <f b`, the IEEE comparison (00_scope.md R16). -/
def fLt (a b : F64) : Bool := !isNaN a && !isNaN b && decide (orderKey a < orderKey b)

/-- A finite value above zero. -/
def isFinitePos (x : F64) : Bool := !x.msb && 0 < magBits x && magBits x < infBits

/-- The exponent 0.1903 of the altitude formula (44_compensation.md R231). -/
def altExponent : F64 := f64Lit 1903 10000

/-- POW_F64 (44_compensation.md R247): any function with (a) `POW_F64(+0.0, 0.1903) = +0.0`, (b) `POW_F64(1.0, y) = 1.0` and
(c) a finite positive result for finite `x > 0`; free otherwise (log entry 11). The finite positive encodings are 1 to
`infBits - 1`, and each of them is possible. -/
def powF64 (x y : F64) : F64 :=
  if x = fZero ∧ y = altExponent then fZero
  else if x = fOne then fOne
  else if isFinitePos x then BitVec.ofNat 64 (1 + (Config.powRaw x y).toNat % (infBits - 1))
  else Config.powRaw x y

end Sys2Proof.Machine
end

