-- ==== Sys2Proof/Machine/Operands.lean ====
section
/-! DEFINITION. Operand assembly and the field functions: byte lanes of the latched operands (30_encoding.md R116 to R118),
the register field decoder (41_codec.md R160 to R164) and the decoding of the bus frames (30_encoding.md R121 to R124). -/

namespace Sys2Proof.Machine

/-- Byte `b_i` of a latched operand, bits `8i+7 : 8i` (30_encoding.md R116). -/
def laneByte (i : Nat) (l : Word) : Byte := l.extractLsb' (8 * i) 8

/-- The 20-bit ADC code in bits 19:0 of a latched operand; bits 31:20 are ignored (30_encoding.md R117, 43_barometer.md R210). -/
def adcOperand (l : Word) : BitVec 20 := l.extractLsb' 0 20

/-- `zext_32` (00_scope.md R15). -/
def zext32 {n : Nat} (v : BitVec n) : Word := v.setWidth 32

/-- `sext_32` of a signed integer of at most 32 bits (00_scope.md R15). -/
def sext32 (v : Int) : Word := BitVec.ofInt 32 v

/-- `tc16`, the two's-complement reinterpretation: `u - 0x10000` if `u >= 0x8000`, else `u` (00_scope.md R15). -/
def tc16 (u : BitVec 16) : Int :=
  if 0x8000 ≤ u.toNat then (u.toNat : Int) - 0x10000 else u.toNat

/-- `beUint16(hi, lo)` is `(hi << 8) | lo` (41_codec.md R160). -/
def beUint16 (hi lo : Byte) : BitVec 16 := (hi.setWidth 16 <<< 8) ||| lo.setWidth 16

/-- `beInt16(hi, lo)` is `tc16(beUint16(hi, lo))` (41_codec.md R161). -/
def beInt16 (hi lo : Byte) : Int := tc16 (beUint16 hi lo)

/-- `leUint16(lo, hi)` is `(hi << 8) | lo`, the low byte first in the stream (41_codec.md R162). -/
def leUint16 (lo hi : Byte) : BitVec 16 := (hi.setWidth 16 <<< 8) ||| lo.setWidth 16

/-- `leInt16(lo, hi)` is `tc16(leUint16(lo, hi))` (41_codec.md R163). -/
def leInt16 (lo hi : Byte) : Int := tc16 (leUint16 lo hi)

/-- `u20FromTriplet(msb, lsb, xlsb)` is `(msb << 12) | (lsb << 4) | (xlsb >> 4)` (41_codec.md R164). -/
def u20FromTriplet (msb lsb xlsb : Byte) : BitVec 20 :=
  (msb.setWidth 20 <<< 12) ||| (lsb.setWidth 20 <<< 4) ||| (xlsb >>> 4).setWidth 20

/-- MAG_FRAME_LEN (00_scope.md section 4, 30_encoding.md R121). -/
def magFrameLen : Nat := 7

/-- CAL_LEN (00_scope.md section 4, 30_encoding.md R123). -/
def calLen : Nat := 24

/-- DATA_LEN (00_scope.md section 4, 30_encoding.md R124). -/
def dataLen : Nat := 6

/-- What a magnetometer frame decodes to: the raw status byte and the AxisReading (42_magnetometer.md R182). -/
structure MagReading where
  status : Byte
  x      : Int
  y      : Int
  z      : Int
  deriving DecidableEq, Repr

/-- `magDecode`: status first, then X, Y, Z, each high byte first (42_magnetometer.md R182, 30_encoding.md R121). -/
def magDecode (b : Vector Byte magFrameLen) : MagReading :=
  { status := b[0]'(by decide), x := beInt16 (b[1]'(by decide)) (b[2]'(by decide)),
    y := beInt16 (b[3]'(by decide)) (b[4]'(by decide)), z := beInt16 (b[5]'(by decide)) (b[6]'(by decide)) }

/-- A CalibrationSet: twelve integers (00_scope.md glossary, 43_barometer.md R203). -/
structure Calib where
  t1 : Int
  t2 : Int
  t3 : Int
  p1 : Int
  p2 : Int
  p3 : Int
  p4 : Int
  p5 : Int
  p6 : Int
  p7 : Int
  p8 : Int
  p9 : Int
  deriving DecidableEq, Repr

/-- The range of an unsigned coefficient (43_barometer.md R203). -/
abbrev u16Range (v : Int) : Prop := 0 ≤ v ∧ v ≤ 65535

/-- The range of a signed coefficient (43_barometer.md R203). -/
abbrev s16Range (v : Int) : Prop := -32768 ≤ v ∧ v ≤ 32767

/-- T1 and P1 lie in 0..65535 and the other ten in -32768..32767 (43_barometer.md R203, 44_compensation.md R230). -/
abbrev Calib.InRange (c : Calib) : Prop :=
  u16Range c.t1 ∧ s16Range c.t2 ∧ s16Range c.t3 ∧ u16Range c.p1 ∧ s16Range c.p2 ∧ s16Range c.p3 ∧ s16Range c.p4 ∧
    s16Range c.p5 ∧ s16Range c.p6 ∧ s16Range c.p7 ∧ s16Range c.p8 ∧ s16Range c.p9

/-- `calParse`: coefficient k at bytes 2k (low) and 2k+1 (high), T1 and P1 unsigned, the rest signed (43_barometer.md R202,
30_encoding.md R123). -/
def calParse (b : Vector Byte calLen) : Calib :=
  { t1 := (leUint16 (b[0]'(by decide)) (b[1]'(by decide))).toNat, t2 := leInt16 (b[2]'(by decide)) (b[3]'(by decide)),
    t3 := leInt16 (b[4]'(by decide)) (b[5]'(by decide)),
    p1 := (leUint16 (b[6]'(by decide)) (b[7]'(by decide))).toNat, p2 := leInt16 (b[8]'(by decide)) (b[9]'(by decide)),
    p3 := leInt16 (b[10]'(by decide)) (b[11]'(by decide)), p4 := leInt16 (b[12]'(by decide)) (b[13]'(by decide)),
    p5 := leInt16 (b[14]'(by decide)) (b[15]'(by decide)), p6 := leInt16 (b[16]'(by decide)) (b[17]'(by decide)),
    p7 := leInt16 (b[18]'(by decide)) (b[19]'(by decide)), p8 := leInt16 (b[20]'(by decide)) (b[21]'(by decide)),
    p9 := leInt16 (b[22]'(by decide)) (b[23]'(by decide)) }

/-- The two ADC codes of a data block (43_barometer.md R205). -/
structure AdcCodes where
  adcP : BitVec 20
  adcT : BitVec 20
  deriving DecidableEq, Repr

/-- `dataDecode`: pressure MSB, LSB, XLSB, then temperature MSB, LSB, XLSB (43_barometer.md R205, 30_encoding.md R124). -/
def dataDecode (b : Vector Byte dataLen) : AdcCodes :=
  { adcP := u20FromTriplet (b[0]'(by decide)) (b[1]'(by decide)) (b[2]'(by decide)),
    adcT := u20FromTriplet (b[3]'(by decide)) (b[4]'(by decide)) (b[5]'(by decide)) }

end Sys2Proof.Machine
end

