-- ==== Sys2Proof/Machine/Compensation.lean ====
section
/-! DEFINITION. The fixed-coefficient compensation engine (44_compensation.md R230 to R248), one operation at a time, each
rounded before it is used (R232). The names are those of the rules. -/

namespace Sys2Proof.Machine

/-- The record that `compensate` returns (44_compensation.md R230). -/
structure CompResult where
  tFine       : F64
  temperature : F64
  pressure    : F64
  altitude    : F64
  degenerate  : Bool
  altInvalid  : Bool
  deriving DecidableEq, Repr

/-- `SQ(k, v)`, a coefficient times a square, in the order SQUARE_ORDER selects (44_compensation.md R244). -/
def compSq (order : SquareOrder) (k v : F64) : F64 :=
  match order with
  | .squareFirst => fMul k (fMul v v)
  | .leftToRight => fMul (fMul k v) v

/-- `tv1`, the first temperature term (44_compensation.md R233). -/
def compTv1 (adcT : BitVec 20) (c : Calib) : F64 :=
  fMul (fSub (fDiv (f64 adcT.toNat) (f64Lit 16384 1)) (fDiv (f64 c.t1) (f64Lit 1024 1))) (f64 c.t2)

/-- `tv2`, the second temperature term; `td` is computed once and squared (44_compensation.md R234). -/
def compTv2 (adcT : BitVec 20) (c : Calib) : F64 :=
  let td := fSub (fDiv (f64 adcT.toNat) (f64Lit 131072 1)) (fDiv (f64 c.t1) (f64Lit 8192 1))
  fMul (fMul td td) (f64 c.t3)

/-- `t_fine` (44_compensation.md R235). -/
def compTfine (adcT : BitVec 20) (c : Calib) : F64 := fAdd (compTv1 adcT c) (compTv2 adcT c)

/-- `temperature_C` (44_compensation.md R235). -/
def compTemperature (tFine : F64) : F64 := fDiv tFine (f64Lit 5120 1)

/-- `q1` (44_compensation.md R236). -/
def compQ1 (tFine : F64) : F64 := fSub (fDiv tFine (f64Lit 2 1)) (f64Lit 64000 1)

/-- `w2`, from `w0` and `w1` (44_compensation.md R237 to R239). -/
def compW2 (q1 : F64) (c : Calib) : F64 :=
  let w0 := fDiv (fMul (fMul q1 q1) (f64 c.p6)) (f64Lit 32768 1)
  let w1 := fAdd w0 (fMul (fMul q1 (f64 c.p5)) (f64Lit 2 1))
  fAdd (fDiv w1 (f64Lit 4 1)) (fMul (f64 c.p4) (f64Lit 65536 1))

/-- `q3`, the scale term, from `a` and `q2` (44_compensation.md R240). -/
def compQ3 (order : SquareOrder) (q1 : F64) (c : Calib) : F64 :=
  let a := fDiv (compSq order (f64 c.p3) q1) (f64Lit 524288 1)
  let q2 := fDiv (fAdd a (fMul (f64 c.p2) q1)) (f64Lit 524288 1)
  fMul (fAdd (f64Lit 1 1) (fDiv q2 (f64Lit 32768 1))) (f64 c.p1)

/-- `p1`, from `p0` (44_compensation.md R241). -/
def compP1 (adcP : BitVec 20) (w2 q3 : F64) : F64 :=
  let p0 := fSub (f64Lit 1048576 1) (f64 adcP.toNat)
  fDiv (fMul (fSub p0 (fDiv w2 (f64Lit 4096 1))) (f64Lit 6250 1)) q3

/-- `pressure_hPa` on the path `q3 ≠ 0`, from `v9` and `v8` (44_compensation.md R242, R243). -/
def compPressure (order : SquareOrder) (p1 : F64) (c : Calib) : F64 :=
  let v9 := fDiv (compSq order (f64 c.p9) p1) (f64Lit 2147483648 1)
  let v8 := fDiv (fMul p1 (f64 c.p8)) (f64Lit 32768 1)
  let pressurePa := fAdd p1 (fDiv (fAdd (fAdd v9 v8) (f64 c.p7)) (f64Lit 16 1))
  fDiv pressurePa (f64Lit 100 1)

/-- The altitude formula for the power `p` (44_compensation.md R245). -/
def altitudeFormula (p : F64) : F64 := fMul (f64Lit 44330 1) (fSub (f64Lit 1 1) p)

/-- `altitude_m` on the path where `pressure_hPa` is not negative (44_compensation.md R245). -/
def compAltitude (pow : F64 → F64 → F64) (pressure : F64) : F64 :=
  altitudeFormula (pow (fDiv pressure (f64Lit 101325 100)) altExponent)

/-- The engine for a given SQUARE_ORDER and POW_F64 (44_compensation.md R248). -/
def compensateWith (order : SquareOrder) (pow : F64 → F64 → F64) (adcT adcP : BitVec 20) (c : Calib) : CompResult :=
  let tFine := compTfine adcT c
  let q1 := compQ1 tFine
  let q3 := compQ3 order q1 c
  let degenerate := fEq q3 fZero
  let pressure := if degenerate then fZero else compPressure order (compP1 adcP (compW2 q1 c) q3) c
  let altInvalid := fLt pressure fZero
  { tFine := tFine
    temperature := compTemperature tFine
    pressure := pressure
    altitude := if altInvalid then fZero else compAltitude pow pressure
    degenerate := degenerate
    altInvalid := altInvalid }

/-- `compensate`, for the instance's SQUARE_ORDER and POW_F64 (44_compensation.md R230). -/
def compensate (adcT adcP : BitVec 20) (c : Calib) : CompResult :=
  compensateWith Config.squareOrder powF64 adcT adcP c

end Sys2Proof.Machine
end

