-- ==== Sys2Proof/Machine/State.lean ====
section
/-! DEFINITION. The state of the block as plain data, its reset value, and the reasons a step can stop. -/

namespace Sys2Proof.Machine

/-- The codes of STATUS.ERR (60_exceptions.md R260); codes 6 to 15 are never produced (R267). -/
inductive ErrCode where
  | ok
  | deviceUnresponsive
  | sensorUnavailable
  | notInitialized
  | invalidState
  | illegalCommand
  deriving DecidableEq, Repr

/-- The magnetometer sequencer states (10_state.md R38). -/
inductive MagState where
  | idle
  | measuringRequested
  | resultAvailable
  deriving DecidableEq, Repr

/-- The barometer sequencer states (10_state.md R39). -/
inductive BaroState where
  | uninit
  | configured
  | ready
  deriving DecidableEq, Repr

/-- The fields of STATUS (10_state.md R33); the reserved bits are hard-wired to zero. -/
structure Status where
  busy      : Bool
  done      : Bool
  cmdOvr    : Bool
  err       : ErrCode
  magState  : MagState
  baroState : BaroState
  magRv     : Bool
  baroRv    : Bool
  degen     : Bool
  altInv    : Bool
  deriving DecidableEq, Repr

/-- The magnetometer result registers (10_state.md R50 to R52). -/
structure MagRegs where
  x      : Word
  y      : Word
  z      : Word
  stat   : Word
  normLo : Word
  normHi : Word
  deriving DecidableEq, Repr

/-- The barometer result registers (10_state.md R55 to R59). -/
structure BaroRegs where
  adcT    : Word
  adcP    : Word
  tfineLo : Word
  tfineHi : Word
  tempLo  : Word
  tempHi  : Word
  pressLo : Word
  pressHi : Word
  altLo   : Word
  altHi   : Word
  deriving DecidableEq, Repr

/-- The calibration registers (10_state.md R62). -/
structure CalRegs where
  t1 : Word
  t2 : Word
  t3 : Word
  p1 : Word
  p2 : Word
  p3 : Word
  p4 : Word
  p5 : Word
  p6 : Word
  p7 : Word
  p8 : Word
  p9 : Word
  deriving DecidableEq, Repr

/-- The latches of an accepted command (10_state.md R70). -/
structure Latches where
  lcmd  : Word
  larg0 : Word
  larg1 : Word
  deriving DecidableEq, Repr

/-- The payload of a BusWrite: a magnetometer command byte, or a barometer register number and value (20_memory.md R91). -/
inductive BusPayload where
  | command (byte : Byte)
  | registerWrite (reg value : Byte)
  deriving DecidableEq, Repr

/-- What a BusWrite returns (00_scope.md R19). -/
inductive BusWriteResp where
  | ack
  | err
  deriving DecidableEq, Repr

/-- What a BusRead returns, as the history records it (20_memory.md R93, R94). -/
inductive BusReadRecord where
  | data (bytes : List Byte)
  | err
  deriving DecidableEq, Repr

/-- One transaction of the bus history: `W(addr, payload, resp)` or `R(addr, cmd, n, resp)` (20_memory.md R94). -/
inductive BusEntry where
  | w (addr : BusAddr) (payload : BusPayload) (resp : BusWriteResp)
  | r (addr : BusAddr) (cmd : Byte) (n : Nat) (resp : BusReadRecord)
  deriving DecidableEq, Repr

/-- One answer of the bus oracle (20_memory.md R93, log entry 2): the device answers with these bytes (none for a plain
acknowledge), or the transaction fails. -/
inductive BusAnswer where
  | responds (bytes : List Byte)
  | fails
  deriving DecidableEq, Repr

/-- One event of the interleaving (20_memory.md R102, log entry 5). -/
inductive Event where
  /-- A host read of `bytes` bytes at `BASE + off` (00_scope.md R18). -/
  | hostRead (off : Word) (bytes : Nat)
  /-- A host write of `bytes` bytes of `v` at `BASE + off` (00_scope.md R18). -/
  | hostWrite (off : Word) (bytes : Nat) (v : Word)
  /-- The host lets time pass (30_encoding.md R126, WAIT). -/
  | wait (time : Nat)
  /-- The bus oracle supplies one more answer (20_memory.md R93). -/
  | busAnswer (a : BusAnswer)
  /-- The engine's turn (40_control.md R143). -/
  | engine
  /-- The reset input (70_reset_and_hazards.md R290). -/
  | reset
  /-- Another master uses the sensor bus (70_reset_and_hazards.md R306). -/
  | otherMaster
  deriving DecidableEq, Repr

/-- A value that a host read returned (00_scope.md R18, log entry 7). -/
structure HostReadRecord where
  off   : Word
  value : Word
  deriving DecidableEq, Repr

/-- The state of the block and of the run around it. The fields from `status` to `latch` are the block's own; `premise` is what the
instance's author states; `busIn`, `agenda` and `hostReads` are the model's (log entries 2, 5, 7); `history` is
the record of 10_state.md R73. -/
structure State where
  /-- The premise of 00_scope.md R13, fixed for the life of the instance (R12); the machine refuses every step of an instance
  whose premise is ill-formed (log entry 9). -/
  premise   : InstancePremise
  status    : Status
  arg0      : Word
  arg1      : Word
  res0      : Word
  mag       : MagRegs
  baro      : BaroRegs
  cal       : CalRegs
  latch     : Latches
  /-- The bus oracle's answers that no transaction has used yet, oldest first (log entry 2). -/
  busIn     : List BusAnswer
  /-- Every transaction issued, oldest first (10_state.md R73). -/
  history   : List BusEntry
  /-- The events still to come, next first (log entry 5). -/
  agenda    : List Event
  /-- What the host's reads returned, oldest first (log entry 7). -/
  hostReads : List HostReadRecord
  deriving DecidableEq, Repr

/-- Why a step faults. No command and no host write faults (60_exceptions.md R269, R281). -/
inductive Fault where
  /-- Raised by a host read of STATUS in a state whose MAG_STATE is ResultAvailable, which no step leaves behind and "the
  host never reads" (10_state.md R38, 93_implementation_defined.md I17, log entry 15). Safe. -/
  | magStateNeverRead
  deriving DecidableEq, Repr

/-- Why a step is refused: the event is outside the block's contract. -/
inductive Refusal where
  /-- Raised by an arm of `exec` whose instruction has no meaning yet; no arm answers so. Safe. -/
  | notModelled (mnemonic : String)
  /-- Raised by every step of an instance whose premise is ill-formed: "A model refuses an instance that does not meet this
  check" (00_scope.md R13, 93_implementation_defined.md I15). Safe. -/
  | illFormedInstance
  /-- Raised by a host access that is not an aligned 32-bit access (20_memory.md R81). Safe. -/
  | hostAccessShape
  /-- Raised by a host access at an offset above 0x0FC, which does not address the block (20_memory.md R80, log entry 14). Safe. -/
  | hostAccessOutsideWindow
  /-- Raised when another master uses the sensor bus while a command runs (70_reset_and_hazards.md R306,
  93_implementation_defined.md I16, log entry 16). Safe. -/
  | otherBusMaster
  deriving DecidableEq, Repr

/-- What a step and the meaning of a command answer. -/
abbrev StepResult := Host.Outcome State Fault Refusal

/-- STATUS after reset: 0x00000000 (10_state.md R33, 70_reset_and_hazards.md R290). -/
def Status.reset : Status :=
  { busy := false, done := false, cmdOvr := false, err := .ok, magState := .idle, baroState := .uninit,
    magRv := false, baroRv := false, degen := false, altInv := false }

/-- The magnetometer result registers after reset (10_state.md R30). -/
def MagRegs.reset : MagRegs := ⟨0, 0, 0, 0, 0, 0⟩

/-- The barometer result registers after reset (10_state.md R30). -/
def BaroRegs.reset : BaroRegs := ⟨0, 0, 0, 0, 0, 0, 0, 0, 0, 0⟩

/-- The calibration registers after reset (10_state.md R30). -/
def CalRegs.reset : CalRegs := ⟨0, 0, 0, 0, 0, 0, 0, 0, 0, 0, 0, 0⟩

/-- The latches after reset: DESIGN CHOICE zero, since the spec leaves them unspecified (10_state.md R70, log entry 1). Unsafe. -/
def Latches.reset : Latches := ⟨0, 0, 0⟩

/-- The block right after power-on (70_reset_and_hazards.md R290, R294): every register at the reset column of 10_state.md
R30, the history empty, no bus answer and no event supplied yet (log entries 1, 2, 5, 7), of an instance whose author states
the premise that R13 asks for (log entry 9). -/
def State.reset : State :=
  { premise := ⟨AxisMask.xyz, AxisMask.xyz⟩
    status := Status.reset, arg0 := 0, arg1 := 0, res0 := 0, mag := MagRegs.reset, baro := BaroRegs.reset,
    cal := CalRegs.reset, latch := Latches.reset, busIn := [], history := [], agenda := [],
    hostReads := [] }

end Sys2Proof.Machine
end

