-- ==== Sys2Proof/Machine/Flags.lean ====
section
/-! DEFINITION. STATUS as a 32-bit word, its write-1-to-clear bits and its completion record (10_state.md R33 to R43,
40_control.md R146). The two flags that arithmetic sets, DEGEN and ALT_INV, are computed with the result they describe
(Machine/Compensation.lean) and stored with it (Machine/Ops.lean). -/

namespace Sys2Proof.Machine

/-- The number of an error code (60_exceptions.md R260). -/
def ErrCode.code : ErrCode → BitVec 4
  | .ok => 0
  | .deviceUnresponsive => 1
  | .sensorUnavailable => 2
  | .notInitialized => 3
  | .invalidState => 4
  | .illegalCommand => 5

/-- The encoding of MAG_STATE (10_state.md R38). -/
def MagState.code : MagState → BitVec 2
  | .idle => 0
  | .measuringRequested => 1
  | .resultAvailable => 2

/-- The encoding of BARO_STATE (10_state.md R39). -/
def BaroState.code : BaroState → BitVec 2
  | .uninit => 0
  | .configured => 1
  | .ready => 2

/-- STATUS as the host reads it: ALT_INV 15, DEGEN 14, BARO_RV 13, MAG_RV 12, BARO_STATE 11:10, MAG_STATE 9:8, ERR 7:4,
CMD_OVR 2, DONE 1, BUSY 0, the rest zero (10_state.md R33). -/
def Status.word (st : Status) : Word :=
  0#16 ++ BitVec.ofBool st.altInv ++ BitVec.ofBool st.degen ++ BitVec.ofBool st.baroRv ++ BitVec.ofBool st.magRv ++
    st.baroState.code ++ st.magState.code ++ st.err.code ++ 0#1 ++ BitVec.ofBool st.cmdOvr ++ BitVec.ofBool st.done ++
    BitVec.ofBool st.busy

/-- A host write of `v` to STATUS: clears DONE if bit 1 of `v` is 1, CMD_OVR if bit 2 is 1, and nothing else (10_state.md R33). -/
def Status.writeOneToClear (v : Word) (st : Status) : Status :=
  { st with done := st.done && !v.getLsbD 1, cmdOvr := st.cmdOvr && !v.getLsbD 2 }

/-- The completion record: ERR, DONE and BUSY (40_control.md R146). -/
def Status.completed (code : ErrCode) (st : Status) : Status :=
  { st with err := code, done := true, busy := false }

/-- BARO_STATE and BARO_RV when an initialisation step fails (60_exceptions.md R272). -/
def Status.uninitialized (st : Status) : Status :=
  { st with baroState := .uninit, baroRv := false }

end Sys2Proof.Machine
end

