-- ==== Sys2Proof/Machine/Ops.lean ====
section
/-! DEFINITION. The named operations over the state: the bus port, the completion of a command (the block's only "trap
entry"), the writes of the result and calibration registers, and the acceptance and reset of a command. -/

namespace Sys2Proof.Machine

/-! ### The bus port (20_memory.md R90 to R99) -/

/-- What a BusRead of `n` bytes returns to the command (00_scope.md R19). -/
inductive BusReadResp (n : Nat) where
  | data (bytes : Vector Byte n)
  | err

/-- The answer as a BusWrite returns it: `Ack` or `Err` (20_memory.md R93). -/
def BusAnswer.toWrite : BusAnswer → BusWriteResp
  | .responds _ => .ack
  | .fails => .err

/-- The answer as a BusRead of `n` bytes returns it: "a short/failed transfer is a TransportError, not a partial frame"
(20_memory.md R93, R99). -/
def BusAnswer.toRead (n : Nat) : BusAnswer → BusReadResp n
  | .responds bytes => if h : bytes.length = n then .data ⟨bytes.toArray, by simpa using h⟩ else .err
  | .fails => .err

/-- The response as the history records it (20_memory.md R94). -/
def BusReadResp.record {n : Nat} : BusReadResp n → BusReadRecord
  | .data bytes => .data bytes.toList
  | .err => .err

/-- `BusWrite(addr, payload)` (00_scope.md R19): uses the oracle's next answer and records the transaction. Answers `none`
where the bus has not answered (20_memory.md R93, 40_control.md R143). -/
def busWrite (addr : BusAddr) (payload : BusPayload) (s : State) : Option (BusWriteResp × State) :=
  match s.busIn with
  | [] => none
  | a :: rest =>
    some (a.toWrite, { s with busIn := rest, history := s.history ++ [.w addr payload a.toWrite] })

/-- `BusRead(addr, cmd, n)` (00_scope.md R19), in the same way. -/
def busRead (addr : BusAddr) (cmd : Byte) (n : Nat) (s : State) : Option (BusReadResp n × State) :=
  match s.busIn with
  | [] => none
  | a :: rest =>
    some (a.toRead n, { s with busIn := rest, history := s.history ++ [.r addr cmd n (a.toRead n).record] })

/-- The command waits: its transaction is not answered, so it does not complete and BUSY stays 1 (40_control.md R143,
70_reset_and_hazards.md R305, log entry 3). -/
def waitForBus (s : State) : StepResult := .next s

/-! ### Completion, the block's only "trap entry" (60_exceptions.md R272)

There is no return from it: "There is no return-from-trap command and nothing to restore" (R275). -/

/-- `complete(code)`, and `fail code` with a failure's code: writes ERR, DONE and BUSY (00_scope.md R20,
40_control.md R146). -/
def complete (code : ErrCode) (s : State) : State :=
  { s with status := s.status.completed code }

/-- The extra changes of a failing initialisation command: BARO_STATE = UNINIT, BARO_RV = 0 (60_exceptions.md R272). -/
def dropToUninit (s : State) : State := { s with status := s.status.uninitialized }

/-! ### Register writes -/

/-- Bits 31:0 of a binary64 encoding (20_memory.md R86). -/
def lo32 (x : F64) : Word := x.extractLsb' 0 32

/-- Bits 63:32 of a binary64 encoding (20_memory.md R86). -/
def hi32 (x : F64) : Word := x.extractLsb' 32 32

/-- `reg[RES0] <- v` (10_state.md R47). -/
def writeRes0 (v : Word) (s : State) : State := { s with res0 := v }

/-- `reg[MAG_STATE] <- m` (10_state.md R38). -/
def setMagState (m : MagState) (s : State) : State := { s with status := { s.status with magState := m } }

/-- `reg[MAG_RV] <- v` (10_state.md R40). -/
def setMagRv (v : Bool) (s : State) : State := { s with status := { s.status with magRv := v } }

/-- `reg[BARO_STATE] <- b` (10_state.md R39). -/
def setBaroState (b : BaroState) (s : State) : State := { s with status := { s.status with baroState := b } }

/-- `reg[BARO_RV] <- v` (10_state.md R41). -/
def setBaroRv (v : Bool) (s : State) : State := { s with status := { s.status with baroRv := v } }

/-- The magnitude of an axis triple: the exact integer sum of squares, converted exactly, its root rounded once
(42_magnetometer.md R183). -/
def magnitude (x y z : Int) : F64 := fSqrt (f64 (x * x + y * y + z * z))

/-- The six magnetometer result registers of a reading (42_magnetometer.md R186). -/
def MagReading.regs (d : MagReading) : MagRegs :=
  { x := sext32 d.x, y := sext32 d.y, z := sext32 d.z, stat := zext32 d.status,
    normLo := lo32 (magnitude d.x d.y d.z), normHi := hi32 (magnitude d.x d.y d.z) }

/-- Writes the six magnetometer result registers (10_state.md R50 to R52). -/
def writeMagResults (d : MagReading) (s : State) : State := { s with mag := d.regs }

/-- `zext_32` of an unsigned integer coefficient (43_barometer.md R208). -/
def zextCoeff (v : Int) : Word := BitVec.ofNat 32 v.toNat

/-- The calibration registers of a CalibrationSet: T1 and P1 zero-extended, the rest sign-extended (10_state.md R62). -/
def Calib.regs (c : Calib) : CalRegs :=
  { t1 := zextCoeff c.t1, t2 := sext32 c.t2, t3 := sext32 c.t3, p1 := zextCoeff c.p1, p2 := sext32 c.p2,
    p3 := sext32 c.p3, p4 := sext32 c.p4, p5 := sext32 c.p5, p6 := sext32 c.p6, p7 := sext32 c.p7, p8 := sext32 c.p8,
    p9 := sext32 c.p9 }

/-- Writes the twelve calibration registers together (10_state.md R63). -/
def writeCal (c : Calib) (s : State) : State := { s with cal := c.regs }

/-- An unsigned coefficient read back from bits 15:0 of its register (43_barometer.md R204). -/
def unsignedCoeff (r : Word) : Int := (r.extractLsb' 0 16).toNat

/-- A signed coefficient read back from bits 15:0 of its register (43_barometer.md R204). -/
def signedCoeff (r : Word) : Int := tc16 (r.extractLsb' 0 16)

/-- `calib()`, the CalibrationSet read back from the calibration registers (43_barometer.md R204). -/
def CalRegs.calib (r : CalRegs) : Calib :=
  { t1 := unsignedCoeff r.t1, t2 := signedCoeff r.t2, t3 := signedCoeff r.t3, p1 := unsignedCoeff r.p1,
    p2 := signedCoeff r.p2, p3 := signedCoeff r.p3, p4 := signedCoeff r.p4, p5 := signedCoeff r.p5,
    p6 := signedCoeff r.p6, p7 := signedCoeff r.p7, p8 := signedCoeff r.p8, p9 := signedCoeff r.p9 }

/-- The ten barometer result registers of a compensation (43_barometer.md R206). -/
def CompResult.regs (adcT adcP : BitVec 20) (res : CompResult) : BaroRegs :=
  { adcT := zext32 adcT, adcP := zext32 adcP,
    tfineLo := lo32 res.tFine, tfineHi := hi32 res.tFine,
    tempLo := lo32 res.temperature, tempHi := hi32 res.temperature,
    pressLo := lo32 res.pressure, pressHi := hi32 res.pressure,
    altLo := lo32 res.altitude, altHi := hi32 res.altitude }

/-- `writeBaroResults`: the ten registers and the flags DEGEN, ALT_INV and BARO_RV together (43_barometer.md R206). -/
def writeBaroResults (adcT adcP : BitVec 20) (res : CompResult) (s : State) : State :=
  { s with
    baro := res.regs adcT adcP
    status := { s.status with degen := res.degenerate, altInv := res.altInvalid, baroRv := true } }

/-- Runs the engine on two codes with the calibration registers and writes the results (43_barometer.md R209, R210). -/
def compensateAndWrite (adcT adcP : BitVec 20) (s : State) : State :=
  writeBaroResults adcT adcP (compensate adcT adcP s.cal.calib) s

/-! ### Acceptance, overrun and reset -/

/-- The block accepts command word `w`: it latches the word and both operands and sets BUSY (40_control.md R140). -/
def acceptCommand (w : Word) (s : State) : State :=
  { s with
    latch := { lcmd := w, larg0 := s.arg0, larg1 := s.arg1 }
    status := { s.status with busy := true } }

/-- A CMD write while BUSY = 1 is dropped and marked in CMD_OVR (40_control.md R141). -/
def dropCommand (s : State) : State := { s with status := { s.status with cmdOvr := true } }

/-- The reset input: every register and field takes its reset value, a running command is aborted, no transaction is issued;
the history stays (70_reset_and_hazards.md R290 to R294), and so do the instance (00_scope.md R12) and what is outside the
block (log entry 7). -/
def resetBlock (s : State) : State :=
  { State.reset with premise := s.premise, busIn := s.busIn, history := s.history, agenda := s.agenda, hostReads := s.hostReads }

end Sys2Proof.Machine
end

