-- ==== Sys2Proof/Machine/Barometer.lean ====
section
/-! DEFINITION. The barometer sequencer's commands (43_barometer.md R207 to R210). -/

namespace Sys2Proof.Machine

/-- The control register write of BARO_CONFIGURE (30_encoding.md R122). -/
abbrev writeControl (s : State) : Option (BusWriteResp × State) :=
  busWrite Config.baroBusAddr (.registerWrite Config.baroRegCtrl Config.baroCtrlValue) s

/-- The config register write of BARO_CONFIGURE (30_encoding.md R122). -/
abbrev writeConfig (s : State) : Option (BusWriteResp × State) :=
  busWrite Config.baroBusAddr (.registerWrite Config.baroRegConfig Config.baroConfigValue) s

/-- The bus read of BARO_LOAD_CAL (30_encoding.md R123). -/
abbrev fetchCalBlock (s : State) : Option (BusReadResp calLen × State) :=
  busRead Config.baroBusAddr Config.baroRegCalib calLen s

/-- The bus read of BARO_READ (30_encoding.md R124). -/
abbrev fetchDataBlock (s : State) : Option (BusReadResp dataLen × State) :=
  busRead Config.baroBusAddr Config.baroRegData dataLen s

/-- BARO_CONFIGURE (43_barometer.md R207): accepted in every state; the control register write, then the config register
write; either failing drops the sequencer to UNINIT, and on Ack of both UNINIT becomes CONFIGURED while CONFIGURED and READY
are kept. The whole command is one step, and it is enabled only when every transaction on its path is answered (40_control.md
R143, R145): with the control write alone acknowledged, the command waits and nothing changes. -/
def execBaroConfigure (s : State) : StepResult :=
  match writeControl s with
  | none => waitForBus s
  | some (.err, s1) => .next (complete .deviceUnresponsive (dropToUninit s1))
  | some (.ack, s1) =>
    match writeConfig s1 with
    | none => waitForBus s
    | some (.err, s2) => .next (complete .deviceUnresponsive (dropToUninit s2))
    | some (.ack, s2) =>
      .next (complete .ok (if s2.status.baroState = .uninit then setBaroState .configured s2 else s2))

/-- BARO_LOAD_CAL (43_barometer.md R208): refused in UNINIT; one 24-byte bus read; a failed read drops the sequencer to
UNINIT, a block is parsed and stored whole and the sequencer becomes READY. -/
def execBaroLoadCal (s : State) : StepResult :=
  if s.status.baroState = .uninit then .next (complete .invalidState s)
  else
    match fetchCalBlock s with
    | none => waitForBus s
    | some (.err, s1) => .next (complete .deviceUnresponsive (dropToUninit s1))
    | some (.data b, s1) => .next (complete .ok (setBaroState .ready (writeCal (calParse b) s1)))

/-- BARO_READ (43_barometer.md R209): READY only; one 6-byte bus read; a failed read clears BARO_RV and stays READY, a block
is decoded, compensated and stored. -/
def execBaroRead (s : State) : StepResult :=
  if s.status.baroState ≠ .ready then .next (complete .notInitialized s)
  else
    match fetchDataBlock s with
    | none => waitForBus s
    | some (.err, s1) => .next (complete .sensorUnavailable (setBaroRv false s1))
    | some (.data b, s1) =>
      .next (complete .ok (compensateAndWrite (dataDecode b).adcT (dataDecode b).adcP s1))

/-- BARO_COMPENSATE (43_barometer.md R210): READY only; the codes are bits 19:0 of the latched ARG0 and ARG1; no bus traffic. -/
def execBaroCompensate (s : State) : StepResult :=
  if s.status.baroState ≠ .ready then .next (complete .notInitialized s)
  else .next (complete .ok (compensateAndWrite (adcOperand s.latch.larg0) (adcOperand s.latch.larg1) s))

end Sys2Proof.Machine
end

