-- ==== Sys2Proof/Machine/Codec.lean ====
section
/-! DEFINITION. The five field-decoder commands (41_codec.md R165 to R169). Each reads bytes of the latched ARG0, applies one
field function, writes RES0 and completes with OK. -/

namespace Sys2Proof.Machine

/-- The shape the five commands share: write RES0, complete with OK (41_codec.md section 2). -/
def decodeField (v : Word) (s : State) : StepResult := .next (complete .ok (writeRes0 v s))

/-- DEC_BEU16: hi = b0, lo = b1, zero-extended (41_codec.md R165). -/
def execDecBeu16 (s : State) : StepResult :=
  decodeField (zext32 (beUint16 (laneByte 0 s.latch.larg0) (laneByte 1 s.latch.larg0))) s

/-- DEC_BES16: hi = b0, lo = b1, sign-extended (41_codec.md R166). -/
def execDecBes16 (s : State) : StepResult :=
  decodeField (sext32 (beInt16 (laneByte 0 s.latch.larg0) (laneByte 1 s.latch.larg0))) s

/-- DEC_LEU16: lo = b0, hi = b1, zero-extended (41_codec.md R167). -/
def execDecLeu16 (s : State) : StepResult :=
  decodeField (zext32 (leUint16 (laneByte 0 s.latch.larg0) (laneByte 1 s.latch.larg0))) s

/-- DEC_LES16: lo = b0, hi = b1, sign-extended (41_codec.md R168). -/
def execDecLes16 (s : State) : StepResult :=
  decodeField (sext32 (leInt16 (laneByte 0 s.latch.larg0) (laneByte 1 s.latch.larg0))) s

/-- DEC_U20: msb = b0, lsb = b1, xlsb = b2, zero-extended (41_codec.md R169). -/
def execDecU20 (s : State) : StepResult :=
  decodeField
    (zext32 (u20FromTriplet (laneByte 0 s.latch.larg0) (laneByte 1 s.latch.larg0) (laneByte 2 s.latch.larg0))) s

end Sys2Proof.Machine
end

