-- ==== Sys2Proof/Machine/Control.lean ====
section
/-! DEFINITION. The control command NOP and the completion of an illegal word (40_control.md R144, R150). -/

namespace Sys2Proof.Machine

/-- NOP: `complete(OK)` (40_control.md R150). -/
def execNop (s : State) : StepResult := .next (complete .ok s)

/-- An illegal word: `fail ILLEGAL_COMMAND` before any state check and any bus transaction (40_control.md R144,
60_exceptions.md R265). -/
def illegalCommand (s : State) : StepResult := .next (complete .illegalCommand s)

end Sys2Proof.Machine
end

