-- ==== Sys2Proof/Machine/Magnetometer.lean ====
section
/-! DEFINITION. The magnetometer sequencer's commands (42_magnetometer.md R185, R186). -/

namespace Sys2Proof.Machine

/-- The bus write of MAG_START (30_encoding.md R120). -/
abbrev sendMagStart (s : State) : Option (BusWriteResp × State) :=
  busWrite Config.magBusAddr (.command Config.magCmdStart) s

/-- The bus read of MAG_READ (30_encoding.md R121). -/
abbrev fetchMagFrame (s : State) : Option (BusReadResp magFrameLen × State) :=
  busRead Config.magBusAddr Config.magCmdRead magFrameLen s

/-- MAG_START (42_magnetometer.md R185): from Idle only; one bus write of MAG_CMD_START; on Ack the sequencer goes to
MeasuringRequested and MAG_RV to 0. -/
def execMagStart (s : State) : StepResult :=
  if s.status.magState ≠ .idle then .next (complete .invalidState s)
  else
    match sendMagStart s with
    | none => waitForBus s
    | some (.err, s1) => .next (complete .deviceUnresponsive s1)
    | some (.ack, s1) => .next (complete .ok (setMagRv false (setMagState .measuringRequested s1)))

/-- The part of MAG_READ after its frame has arrived. MAG_STATE is ResultAvailable inside the step and Idle at its end
(42_magnetometer.md R186, 10_state.md R38). -/
def magReadFrame (b : Vector Byte magFrameLen) (s : State) : State :=
  let available := setMagState .resultAvailable s
  setMagState .idle (setMagRv true (writeMagResults (magDecode b) available))

/-- MAG_READ (42_magnetometer.md R186): from MeasuringRequested only; one 7-byte bus read; a failed read returns to Idle with
MAG_RV = 0, a frame is decoded and stored, its status byte not interpreted. -/
def execMagRead (s : State) : StepResult :=
  if s.status.magState ≠ .measuringRequested then .next (complete .invalidState s)
  else
    match fetchMagFrame s with
    | none => waitForBus s
    | some (.err, s1) => .next (complete .sensorUnavailable (setMagRv false (setMagState .idle s1)))
    | some (.data b, s1) => .next (complete .ok (magReadFrame b s1))

end Sys2Proof.Machine
end

