-- ==== Sys2Proof/Machine/Dispatch.lean ====
section
/-! DEFINITION. The meaning of each command, one arm per constructor (30_encoding.md R112). -/

namespace Sys2Proof.Machine

def exec (i : Instr) (s : State) : Host.Outcome State Fault Refusal :=
  match i with
  | .nop => Sys2Proof.Machine.execNop s
  | .decBeu16 => Sys2Proof.Machine.execDecBeu16 s
  | .decBes16 => Sys2Proof.Machine.execDecBes16 s
  | .decLeu16 => Sys2Proof.Machine.execDecLeu16 s
  | .decLes16 => Sys2Proof.Machine.execDecLes16 s
  | .decU20 => Sys2Proof.Machine.execDecU20 s
  | .magStart => Sys2Proof.Machine.execMagStart s
  | .magRead => Sys2Proof.Machine.execMagRead s
  | .baroConfigure => Sys2Proof.Machine.execBaroConfigure s
  | .baroLoadCal => Sys2Proof.Machine.execBaroLoadCal s
  | .baroRead => Sys2Proof.Machine.execBaroRead s
  | .baroCompensate => Sys2Proof.Machine.execBaroCompensate s

end Sys2Proof.Machine
end

