-- ==== Sys2Proof/Machine/HostPort.lean ====
section
/-! DEFINITION. The host port: the register map (10_state.md R30) and what a host read and a host write do (20_memory.md R80
to R84). -/

namespace Sys2Proof.Machine

/-- The registers of the host window (10_state.md R30). -/
inductive Reg where
  | id | cmd | status | arg0 | arg1 | res0 | cfgInfo
  | magX | magY | magZ | magStat | magNormLo | magNormHi
  | adcT | adcP | tfineLo | tfineHi | tempLo | tempHi | pressLo | pressHi | altLo | altHi
  | calT1 | calT2 | calT3 | calP1 | calP2 | calP3 | calP4 | calP5 | calP6 | calP7 | calP8 | calP9
  deriving DecidableEq, Repr

/-- The offset of a register in the window (10_state.md R30). -/
def Reg.offset : Reg → Nat
  | .id => 0x000
  | .cmd => 0x004
  | .status => 0x008
  | .arg0 => 0x00C
  | .arg1 => 0x010
  | .res0 => 0x014
  | .cfgInfo => 0x018
  | .magX => 0x020
  | .magY => 0x024
  | .magZ => 0x028
  | .magStat => 0x02C
  | .magNormLo => 0x030
  | .magNormHi => 0x034
  | .adcT => 0x040
  | .adcP => 0x044
  | .tfineLo => 0x048
  | .tfineHi => 0x04C
  | .tempLo => 0x050
  | .tempHi => 0x054
  | .pressLo => 0x058
  | .pressHi => 0x05C
  | .altLo => 0x060
  | .altHi => 0x064
  | .calT1 => 0x080
  | .calT2 => 0x084
  | .calT3 => 0x088
  | .calP1 => 0x08C
  | .calP2 => 0x090
  | .calP3 => 0x094
  | .calP4 => 0x098
  | .calP5 => 0x09C
  | .calP6 => 0x0A0
  | .calP7 => 0x0A4
  | .calP8 => 0x0A8
  | .calP9 => 0x0AC

/-- Every register, in the order of the map. -/
def Reg.all : List Reg :=
  [.id, .cmd, .status, .arg0, .arg1, .res0, .cfgInfo, .magX, .magY, .magZ, .magStat, .magNormLo, .magNormHi,
   .adcT, .adcP, .tfineLo, .tfineHi, .tempLo, .tempHi, .pressLo, .pressHi, .altLo, .altHi,
   .calT1, .calT2, .calT3, .calP1, .calP2, .calP3, .calP4, .calP5, .calP6, .calP7, .calP8, .calP9]

/-- The register at an offset; none at a reserved or unlisted offset (10_state.md R30). -/
def Reg.ofOffset (off : Nat) : Option Reg := Reg.all.find? (fun r => r.offset == off)

/-- ID (10_state.md R31). -/
def idValue : Word := 0x53444307#32

/-- CFG_INFO (10_state.md R48). -/
def cfgInfoValue : Word :=
  Config.magCmdRead ++ Config.magCmdStart ++ 0#1 ++ Config.baroBusAddr ++ 0#1 ++ Config.magBusAddr

/-- The value a host read of a register returns; CMD reads 0 (10_state.md R30 to R62). -/
def readReg (r : Reg) (s : State) : Word :=
  match r with
  | .id => idValue
  | .cmd => 0
  | .status => s.status.word
  | .arg0 => s.arg0
  | .arg1 => s.arg1
  | .res0 => s.res0
  | .cfgInfo => cfgInfoValue
  | .magX => s.mag.x
  | .magY => s.mag.y
  | .magZ => s.mag.z
  | .magStat => s.mag.stat
  | .magNormLo => s.mag.normLo
  | .magNormHi => s.mag.normHi
  | .adcT => s.baro.adcT
  | .adcP => s.baro.adcP
  | .tfineLo => s.baro.tfineLo
  | .tfineHi => s.baro.tfineHi
  | .tempLo => s.baro.tempLo
  | .tempHi => s.baro.tempHi
  | .pressLo => s.baro.pressLo
  | .pressHi => s.baro.pressHi
  | .altLo => s.baro.altLo
  | .altHi => s.baro.altHi
  | .calT1 => s.cal.t1
  | .calT2 => s.cal.t2
  | .calT3 => s.cal.t3
  | .calP1 => s.cal.p1
  | .calP2 => s.cal.p2
  | .calP3 => s.cal.p3
  | .calP4 => s.cal.p4
  | .calP5 => s.cal.p5
  | .calP6 => s.cal.p6
  | .calP7 => s.cal.p7
  | .calP8 => s.cal.p8
  | .calP9 => s.cal.p9

/-- The value a host read at an offset of the window returns; a reserved or unlisted offset reads as zero (10_state.md R30). -/
def readOffset (off : Word) (s : State) : Word :=
  match Reg.ofOffset off.toNat with
  | some r => readReg r s
  | none => 0

/-- A CMD write is accepted when BUSY = 0 and dropped when BUSY = 1 (40_control.md R140, R141). -/
def writeCmd (w : Word) (s : State) : State :=
  if s.status.busy then dropCommand s else acceptCommand w s

/-- What a host write at an offset of the window does: only CMD, STATUS, ARG0 and ARG1 have an effect (20_memory.md R84). -/
def writeOffset (off : Word) (v : Word) (s : State) : State :=
  match Reg.ofOffset off.toNat with
  | some .cmd => writeCmd v s
  | some .status => { s with status := s.status.writeOneToClear v }
  | some .arg0 => { s with arg0 := v }
  | some .arg1 => { s with arg1 := v }
  | _ => s

/-- Refuses an access outside the block's contract (20_memory.md R80, R81), else answers `k`. -/
def guardAccess (off : Word) (bytes : Nat) (k : StepResult) : StepResult :=
  if !accessShapeOk off bytes then .refused .hostAccessShape
  else if !accessInWindow off then .refused .hostAccessOutsideWindow
  else k

/-- `HostRead(off)` (00_scope.md R18): no side effect on the block (20_memory.md R83); the value returned is recorded. A
STATUS whose MAG_STATE is ResultAvailable is never there to be read (10_state.md R38, log entry 15). -/
def hostRead (off : Word) (bytes : Nat) (s : State) : StepResult :=
  guardAccess off bytes
    (if Reg.ofOffset off.toNat = some .status ∧ s.status.magState = .resultAvailable then .fault .magStateNeverRead
     else .next { s with hostReads := s.hostReads ++ [{ off := off, value := readOffset off s }] })

/-- `HostWrite(off, v)` (00_scope.md R18, 20_memory.md R84). -/
def hostWrite (off : Word) (bytes : Nat) (v : Word) (s : State) : StepResult :=
  guardAccess off bytes (.next (writeOffset off v s))

/-- The host address of an offset, `BASE + off` (20_memory.md R80). -/
def hostAddress (off : Word) : Word := Config.base + off

/-- The offset of a host address in the window (20_memory.md R80). -/
def windowOffset (addr : Word) : Word := addr - Config.base

end Sys2Proof.Machine
end

