-- ==== Sys2Proof/Machine/Agents.lean ====
section
/-! DEFINITION. The agents' steps: the engine's turn, and what each event of the interleaving does (20_memory.md R102). -/

namespace Sys2Proof.Machine

/-- The engine runs the latched command: it decodes st.LCMD first, and an illegal word fails before anything else
(40_control.md R143, R144). -/
def engineRun (s : State) : StepResult :=
  match decode s.latch.lcmd with
  | .ok i => exec i s
  | .error _ => illegalCommand s

/-- The engine's turn: with BUSY = 0 the engine does nothing (40_control.md R148, log entry 19). -/
def engineTurn (s : State) : StepResult :=
  if s.status.busy then engineRun s else .next s

/-- The state with the transactions that a running command has completed recorded: those on its path that the bus has
answered, in the order of its rule, up to the first Err (20_memory.md R92, R96). -/
def recordCompleted (i : Instr) (s : State) : State :=
  match i with
  | .nop => s
  | .decBeu16 => s
  | .decBes16 => s
  | .decLeu16 => s
  | .decLes16 => s
  | .decU20 => s
  | .magStart =>
    if s.status.magState ≠ .idle then s
    else (sendMagStart s).elim s Prod.snd
  | .magRead =>
    if s.status.magState ≠ .measuringRequested then s
    else (fetchMagFrame s).elim s Prod.snd
  | .baroConfigure =>
    match writeControl s with
    | none => s
    | some (.err, s1) => s1
    | some (.ack, s1) => (writeConfig s1).elim s1 Prod.snd
  | .baroLoadCal =>
    if s.status.baroState = .uninit then s
    else (fetchCalBlock s).elim s Prod.snd
  | .baroRead =>
    if s.status.baroState ≠ .ready then s
    else (fetchDataBlock s).elim s Prod.snd
  | .baroCompensate => s

/-- A running command is aborted: "Transactions the command had completed before the reset stay in the bus history"
(70_reset_and_hazards.md R291). Those are the ones that the bus has answered; a transaction in progress is abandoned (log
entries 4, 20). -/
def abortCommand (s : State) : State :=
  if s.status.busy then
    match decode s.latch.lcmd with
    | .ok i => recordCompleted i s
    | .error _ => s
  else s

/-- One event of the interleaving. -/
def perform (e : Event) (s : State) : StepResult :=
  match e with
  | .hostRead off bytes => hostRead off bytes s
  | .hostWrite off bytes v => hostWrite off bytes v s
  | .wait _ => .next s
  | .busAnswer a => .next { s with busIn := s.busIn ++ [a] }
  | .engine => engineTurn s
  | .reset => .next (resetBlock (abortCommand s))
  | .otherMaster => if s.status.busy then .refused .otherBusMaster else .next s

/-- One step of a well-formed instance: the next event of the agenda, or where none is left the engine's turn, which is the
fairness of 40_control.md R149 (log entry 5). -/
def takeTurn (s : State) : StepResult :=
  match s.agenda with
  | e :: rest => perform e { s with agenda := rest }
  | [] => engineTurn s

/-- One step of the run. An instance whose premise is ill-formed is refused (00_scope.md R13, 93_implementation_defined.md
I15, log entry 9). -/
def nextTurn (s : State) : StepResult :=
  if s.premise.wf then takeTurn s else .refused .illFormedInstance

/-- Places a command word in the latch as an accepted CMD write does (40_control.md R140) and gives the engine the next turn. -/
def loadCommand (w : Word) (s : State) : State :=
  { acceptCommand w s with agenda := .engine :: s.agenda }

end Sys2Proof.Machine
end

