-- ==== Sys2Proof/Machine/Step.lean ====
section
/-! DEFINITION. One step of the machine, and the placing of a command word where the step fetches it. -/

namespace Sys2Proof.Machine

/-- One atomic step: an event of the interleaving, or the engine's turn (20_memory.md R102). -/
def step (s : State) : Host.Outcome State Fault Refusal := nextTurn s

/-- `s` with a command word accepted and the engine's turn next, so that the next step runs exactly it. The block fetches no
instructions: its one analogue is the command latch (20_memory.md R106, log entry 6). -/
def State.withFetchWord (s : State) (nbits w : Nat) : State := loadCommand (BitVec.ofNat 32 (w % 2 ^ nbits)) s

end Sys2Proof.Machine
end

