-- ==== Sys2Proof/Safety.lean ====
section
/-! DEFINITION. What counts as a good state and a good run of the block, in the terms the statements use. -/

namespace Sys2Proof.Machine

/-! ### Register formats -/

/-- "Bits 31:16 always equal bit 15" (10_state.md R50): the word is the sign extension of its low half. -/
def signExtended16 (w : Word) : Prop := ∀ i, 16 ≤ i → i < 32 → w.getLsbD i = w.getLsbD 15

/-- The formats of the register contents: axes and ten coefficients sign-extended, the status byte, the ADC codes and two
coefficients zero-extended (10_state.md R50, R51, R55, R62). -/
structure RegisterFormats (s : State) : Prop where
  magX : signExtended16 s.mag.x
  magY : signExtended16 s.mag.y
  magZ : signExtended16 s.mag.z
  magStat : s.mag.stat.toNat < 2 ^ 8
  adcT : s.baro.adcT.toNat < 2 ^ 20
  adcP : s.baro.adcP.toNat < 2 ^ 20
  calT1 : s.cal.t1.toNat < 2 ^ 16
  calT2 : signExtended16 s.cal.t2
  calT3 : signExtended16 s.cal.t3
  calP1 : s.cal.p1.toNat < 2 ^ 16
  calP2 : signExtended16 s.cal.p2
  calP3 : signExtended16 s.cal.p3
  calP4 : signExtended16 s.cal.p4
  calP5 : signExtended16 s.cal.p5
  calP6 : signExtended16 s.cal.p6
  calP7 : signExtended16 s.cal.p7
  calP8 : signExtended16 s.cal.p8
  calP9 : signExtended16 s.cal.p9

/-! ### Where the contents come from -/

/-- The history holds a successful magnetometer read of frame `b` (30_encoding.md R121). -/
def magFrameRead (b : Vector Byte magFrameLen) (s : State) : Prop :=
  BusEntry.r Config.magBusAddr Config.magCmdRead magFrameLen (.data b.toList) ∈ s.history

/-- The history holds a successful calibration read of block `b` (30_encoding.md R123). -/
def calBlockRead (b : Vector Byte calLen) (s : State) : Prop :=
  BusEntry.r Config.baroBusAddr Config.baroRegCalib calLen (.data b.toList) ∈ s.history

/-- The magnetometer result registers hold the reset zeros, with MAG_RV = 0, or the decoding and the magnitude of a frame
that the block read (10_state.md R40, R50 to R52). -/
def MagReadingGenuine (s : State) : Prop :=
  (s.mag = MagRegs.reset ∧ s.status.magRv = false) ∨ ∃ b, magFrameRead b s ∧ s.mag = (magDecode b).regs

/-- In READY, `calib()` is the parse of a calibration block that the block read (43_barometer.md R204, R211). -/
def CalibrationGenuine (s : State) : Prop :=
  s.status.baroState = .ready → ∃ b, calBlockRead b s ∧ s.cal.calib = calParse b

/-- With BARO_RV = 1, BARO_STATE is READY and the ten result registers and both flags are those of one compensation with a
calibration that the block read (10_state.md R41, R60, 43_barometer.md R211). -/
def BaroReadingGenuine (s : State) : Prop :=
  s.status.baroRv = true →
    s.status.baroState = .ready ∧
      ∃ b adcT adcP res, calBlockRead b s ∧
        res = compensateWith Config.squareOrder powF64 adcT adcP (calParse b) ∧ s.baro = res.regs adcT adcP ∧
        s.status.degen = res.degenerate ∧ s.status.altInv = res.altInvalid

/-- Every reading that the block shows was computed from bytes that the bus gave it. -/
structure ReadingsGenuine (s : State) : Prop where
  mag : MagReadingGenuine s
  cal : CalibrationGenuine s
  baro : BaroReadingGenuine s

/-! ### Sequencer state -/

/-- ResultAvailable is never held between steps (10_state.md R38), and while a requested measurement is open the results that
stand are not valid (R40). -/
structure SequencerSound (s : State) : Prop where
  noResultAvailable : s.status.magState ≠ .resultAvailable
  requestedNotValid : s.status.magState = .measuringRequested → s.status.magRv = false

/-- The binary64 value of a register pair (20_memory.md R86). -/
def pairValue (lo hi : Word) : F64 := hi ++ lo

/-- What DEGEN and ALT_INV say of the results: never both; with DEGEN the pressure is +0.0 and the altitude 44330.0; with
ALT_INV the pressure is negative and the altitude +0.0 (10_state.md R42, R43, 44_compensation.md R240, R246, R252). -/
structure FlagsDescribeResults (s : State) : Prop where
  notBoth : ¬(s.status.degen = true ∧ s.status.altInv = true)
  degenerate : s.status.degen = true →
    pairValue s.baro.pressLo s.baro.pressHi = fZero ∧
      pairValue s.baro.altLo s.baro.altHi = 0x40E5A54000000000#64
  altInvalid : s.status.altInv = true →
    isNaN (pairValue s.baro.pressLo s.baro.pressHi) = false ∧ toUnits (pairValue s.baro.pressLo s.baro.pressHi) < 0 ∧
      pairValue s.baro.altLo s.baro.altHi = fZero

/-! ### Bus traffic -/

/-- The six transactions that the command rules list, with a full frame or Err (20_memory.md R92, R99, 42_magnetometer.md
R180, 43_barometer.md R200). -/
inductive ListedTransaction : BusEntry → Prop where
  | magStart (resp : BusWriteResp) :
      ListedTransaction (.w Config.magBusAddr (.command Config.magCmdStart) resp)
  | magRead (resp : BusReadResp 7) :
      ListedTransaction (.r Config.magBusAddr Config.magCmdRead 7 resp.record)
  | baroControl (resp : BusWriteResp) :
      ListedTransaction (.w Config.baroBusAddr (.registerWrite Config.baroRegCtrl Config.baroCtrlValue) resp)
  | baroConfig (resp : BusWriteResp) :
      ListedTransaction (.w Config.baroBusAddr (.registerWrite Config.baroRegConfig Config.baroConfigValue) resp)
  | baroCalib (resp : BusReadResp 24) :
      ListedTransaction (.r Config.baroBusAddr Config.baroRegCalib 24 resp.record)
  | baroData (resp : BusReadResp 6) :
      ListedTransaction (.r Config.baroBusAddr Config.baroRegData 6 resp.record)

/-- A transaction that was answered `Err`. -/
def BusEntry.failed : BusEntry → Bool
  | .w _ _ .err => true
  | .r _ _ _ .err => true
  | .w _ _ .ack => false
  | .r _ _ _ (.data _) => false

/-! ### What a command may do -/

/-- The codes a command can complete with (60_exceptions.md R269). -/
def possibleCodes : Instr → List ErrCode
  | .nop => [.ok]
  | .decBeu16 => [.ok]
  | .decBes16 => [.ok]
  | .decLeu16 => [.ok]
  | .decLes16 => [.ok]
  | .decU20 => [.ok]
  | .magStart => [.ok, .deviceUnresponsive, .invalidState]
  | .magRead => [.ok, .sensorUnavailable, .invalidState]
  | .baroConfigure => [.ok, .deviceUnresponsive]
  | .baroLoadCal => [.ok, .deviceUnresponsive, .invalidState]
  | .baroRead => [.ok, .sensorUnavailable, .notInitialized]
  | .baroCompensate => [.ok, .notInitialized]

/-- A state that a command completed in: DONE = 1, BUSY = 0 (40_control.md R146). -/
def Completed (t : State) : Prop := t.status.done = true ∧ t.status.busy = false

/-- The completion record and nothing else (40_control.md R146, 60_exceptions.md R272). -/
def afterCompletion (code : ErrCode) (s : State) : State :=
  { s with status := { s.status with err := code, done := true, busy := false } }

/-- The state after one more transaction: its answer used, its entry recorded (20_memory.md R94). -/
def afterTransaction (rest : List BusAnswer) (e : BusEntry) (s : State) : State :=
  { s with busIn := rest, history := s.history ++ [e] }

/-- The commands that issue bus transactions (30_encoding.md section 4). -/
def issuesTransactions : Instr → Bool
  | .nop => false
  | .decBeu16 => false
  | .decBes16 => false
  | .decLeu16 => false
  | .decLes16 => false
  | .decU20 => false
  | .magStart => true
  | .magRead => true
  | .baroConfigure => true
  | .baroLoadCal => true
  | .baroRead => true
  | .baroCompensate => false

/-- Command `i` waits for the bus in the step from `s` to `t`: a transaction on its path is not answered, and nothing changes
(40_control.md R143, log entry 3). BARO_CONFIGURE alone has a second transaction, after an acknowledged first one. -/
def Waiting (i : Instr) (s t : State) : Prop :=
  issuesTransactions i = true ∧ t = s ∧
    (s.busIn = [] ∨ (i = .baroConfigure ∧ ∃ bytes, s.busIn = [.responds bytes]))

/-- The author's premise says of the instance's two magnetometer command bytes what is so (00_scope.md R13). -/
def PremiseTruthful (p : InstancePremise) : Prop :=
  p.startMask = Config.axisMaskOf Config.magCmdStart ∧ p.readMask = Config.axisMaskOf Config.magCmdRead

/-- The next step performs event `e`: the instance is well formed (00_scope.md R13) and `e` is the next event, before
`rest`. -/
def EventNext (s : State) (e : Event) (rest : List Event) : Prop := s.premise.wf = true ∧ s.agenda = e :: rest

/-- The next step is one of the engine: the instance is well formed (00_scope.md R13), BUSY = 1, and it is the engine's turn
or no event is left (40_control.md R149). -/
def EngineNext (s : State) : Prop :=
  s.premise.wf = true ∧ s.status.busy = true ∧ (s.agenda = [] ∨ ∃ rest, s.agenda = .engine :: rest)

/-- The state the engine's step starts from: its turn is taken from the agenda. -/
def turnTaken (s : State) : State := { s with agenda := s.agenda.tail }

/-! ### Arithmetic -/

/-- `r` is the binary64 nearest to `num / den` units of 2^-1074, ties to even (00_scope.md R16): no finite binary64 is nearer,
and where another is as near, the last bit of `r` is 0. -/
def IsNearest (r : F64) (num : Int) (den : Nat) : Prop :=
  isFinite r = true ∧ ∀ c : F64, isFinite c = true →
    (toUnits r * den - num).natAbs ≤ (toUnits c * den - num).natAbs ∧
      ((toUnits r * den - num).natAbs = (toUnits c * den - num).natAbs → toUnits c = toUnits r ∨ magBits r % 2 = 0)

/-- The least magnitude, in units of 2^-1074, that rounds beyond the largest finite binary64. -/
abbrev overflowUnits : Nat := (2 ^ 54 - 1) * 2 ^ 2044

/-- The requirements on POW_F64 of 44_compensation.md R247 (a) to (c). -/
structure PowConforming (pow : F64 → F64 → F64) : Prop where
  zero : pow fZero altExponent = fZero
  one : ∀ y, pow fOne y = fOne
  positive : ∀ x y, isFinitePos x = true → isFinitePos (pow x y) = true

/-! ### The host's duties -/

/-- The event is a 32-bit write of a command word to CMD. -/
def commandWrite (e : Event) : Option Word :=
  match e with
  | .hostWrite off 4 v => if off = 0x004#32 then some v else none
  | _ => none

/-- "Before each command, the host must see BUSY = 0" (70_reset_and_hazards.md R299): the next event keeps to it. -/
def respectsBusy (s : State) : Bool :=
  match s.agenda with
  | e :: _ => (commandWrite e).isNone || !s.status.busy
  | [] => true

/-- The host lets at least T_SETTLE pass between the engine's last turn and the CMD write of a MAG_READ
(70_reset_and_hazards.md R300); `waited` is the time since that turn. The block does not enforce it (42_magnetometer.md R188). -/
def settles (waited : Nat) : List Event → Prop
  | [] => True
  | .wait time :: es => settles (waited + time) es
  | .engine :: es => settles 0 es
  | e :: es => (commandWrite e = some (encode .magRead) → Config.tSettle ≤ waited) ∧ settles waited es

end Sys2Proof.Machine
end

