-- ==== Sys2Proof/Certificates/Slice0/Obligations.lean ====
section
/-! DEFINITION. The statements for the provers, from the numbered rules of spec/. -/

open Sys2Proof Sys2Proof.Machine

/-! ### Encoding -/

/-- 30_encoding.md R112: exactly the twelve words are legal, each decodes to its own command, and the pattern is the whole
32-bit word. -/
def Obligations.LegalWordsAreExactlyTheTwelve : Prop :=
  (∀ (w : Word) (i : Instr), decode w = .ok i ↔ w = encode i) ∧
  (∀ w : Word, (∃ i, decode w = .ok i) ↔
    w.toNat / 256 = 0 ∧
      w.toNat % 256 ∈ [0x00, 0x01, 0x02, 0x03, 0x04, 0x05, 0x10, 0x11, 0x20, 0x21, 0x22, 0x23]) ∧
  encode .nop = 0x00000000#32 ∧ encode .decBeu16 = 0x00000001#32 ∧ encode .decBes16 = 0x00000002#32 ∧
  encode .decLeu16 = 0x00000003#32 ∧ encode .decLes16 = 0x00000004#32 ∧ encode .decU20 = 0x00000005#32 ∧
  encode .magStart = 0x00000010#32 ∧ encode .magRead = 0x00000011#32 ∧ encode .baroConfigure = 0x00000020#32 ∧
  encode .baroLoadCal = 0x00000021#32 ∧ encode .baroRead = 0x00000022#32 ∧ encode .baroCompensate = 0x00000023#32

/-- A few words written out from the table of 30_encoding.md R112 decode to their commands, and words next to them do not. -/
def Obligations.SampleWordsDecode : Prop :=
  decode 0b00000000000000000000000000000000#32 = .ok .nop ∧
  decode 0b00000000000000000000000000000101#32 = .ok .decU20 ∧
  decode 0b00000000000000000000000000010001#32 = .ok .magRead ∧
  decode 0b00000000000000000000000000100010#32 = .ok .baroRead ∧
  decode 0b00000000000000000000000100010001#32 = .error .reservedBits ∧
  decode 0b00000000000000000000000000100100#32 = .error .unassignedOpcode

/-! ### The step and the engine's turn -/

/-- A step runs the decoded command: when the engine's turn comes with BUSY = 1 and st.LCMD decodes to `i`, the step is
`exec i` of the state with the turn taken, and the step adds nothing (40_control.md R143, R144). -/
def Obligations.StepRunsTheLatchedCommand : Prop :=
  ∀ (s : State) (i : Instr), i.wf = true → EngineNext s → decode s.latch.lcmd = .ok i → step s = exec i (turnTaken s)

/-- 60_exceptions.md R265: ILLEGAL_COMMAND is raised exactly when the accepted word is not one of the twelve, and such a word
has no effect besides its completion record. -/
def Obligations.IllegalWordsOnlyComplete : Prop :=
  (∀ (s : State), EngineNext s → (∀ i, s.latch.lcmd ≠ encode i) →
    step s = .next (afterCompletion .illegalCommand (turnTaken s))) ∧
  (∀ (s t : State), EngineNext s → step s = .next t → t.status.busy = false →
    (t.status.err = .illegalCommand ↔ ∀ i, s.latch.lcmd ≠ encode i))

/-- The engine does nothing while no command is in flight (40_control.md R148); an engine's turn taken then has no effect,
which is the model's choice (log entry 19). -/
def Obligations.IdleEngineDoesNothing : Prop :=
  ∀ s : State, s.premise.wf = true → s.status.busy = false →
    (s.agenda = [] → step s = .next s) ∧
    (∀ rest, s.agenda = .engine :: rest → step s = .next { s with agenda := rest })

/-! ### The host port -/

/-- 40_control.md R140: a CMD write with BUSY = 0 latches the word and both operands and sets BUSY; every other register
keeps its value, whatever the word. -/
def Obligations.CmdWriteIsAccepted : Prop :=
  ∀ (s : State) (w : Word) (rest : List Event), EventNext s (.hostWrite 0x004#32 4 w) rest → s.status.busy = false →
    step s = .next { s with
      agenda := rest
      latch := { lcmd := w, larg0 := s.arg0, larg1 := s.arg1 }
      status := { s.status with busy := true } }

/-- 40_control.md R141: a CMD write with BUSY = 1 is dropped and sets CMD_OVR; nothing else changes. -/
def Obligations.CmdWriteWhileBusyIsDropped : Prop :=
  ∀ (s : State) (w : Word) (rest : List Event), EventNext s (.hostWrite 0x004#32 4 w) rest → s.status.busy = true →
    step s = .next { s with agenda := rest, status := { s.status with cmdOvr := true } }

/-- 10_state.md R33: the place of each STATUS field, what a host write to STATUS clears, and the reset value; with the numbers
of the error codes and the sequencer states (60_exceptions.md R260, 10_state.md R38, R39). -/
def Obligations.StatusLayoutAndClear : Prop :=
  (∀ st : Status, st.word.toNat =
    st.busy.toNat + 2 * st.done.toNat + 4 * st.cmdOvr.toNat
      + 16 * st.err.code.toNat + 256 * st.magState.code.toNat + 1024 * st.baroState.code.toNat
      + 4096 * st.magRv.toNat + 8192 * st.baroRv.toNat + 16384 * st.degen.toNat + 32768 * st.altInv.toNat) ∧
  (∀ (s : State) (v : Word) (rest : List Event), EventNext s (.hostWrite 0x008#32 4 v) rest →
    step s = .next { s with
      agenda := rest
      status := { s.status with
        done := if v.getLsbD 1 then false else s.status.done
        cmdOvr := if v.getLsbD 2 then false else s.status.cmdOvr } }) ∧
  Status.reset.word = 0x00000000#32 ∧
  ErrCode.code .ok = 0 ∧ ErrCode.code .deviceUnresponsive = 1 ∧ ErrCode.code .sensorUnavailable = 2 ∧
  ErrCode.code .notInitialized = 3 ∧ ErrCode.code .invalidState = 4 ∧ ErrCode.code .illegalCommand = 5 ∧
  MagState.code .idle = 0 ∧ MagState.code .measuringRequested = 1 ∧ MagState.code .resultAvailable = 2 ∧
  BaroState.code .uninit = 0 ∧ BaroState.code .configured = 1 ∧ BaroState.code .ready = 2

/-- 20_memory.md R84, but for CMD and STATUS, which `CmdWriteIsAccepted`, `CmdWriteWhileBusyIsDropped` and
`StatusLayoutAndClear` give: a write to ARG0 or ARG1 stores the value at any time, BUSY or not (10_state.md R45, R46), and a
write to any other offset of the window is ignored. -/
def Obligations.OtherHostWritesStoreOrAreIgnored : Prop :=
  ∀ (s : State) (off v : Word) (rest : List Event), EventNext s (.hostWrite off 4 v) rest →
    (off = 0x00C#32 → step s = .next { s with agenda := rest, arg0 := v }) ∧
    (off = 0x010#32 → step s = .next { s with agenda := rest, arg1 := v }) ∧
    (off.toNat % 4 = 0 → off.toNat ≤ 0xFC → off ∉ [0x004#32, 0x008#32, 0x00C#32, 0x010#32] →
      step s = .next { s with agenda := rest })

/-- The value at every offset of the register map, zero at every other offset of the window; a host read returns it, records
it and has no other effect (10_state.md R30, 20_memory.md R83). A read of STATUS asks for MAG_STATE ≠ ResultAvailable, which
every step keeps (log entry 15). -/
def Obligations.HostReadsReturnTheRegisterMap : Prop :=
  ∀ (s : State) (off : Word) (rest : List Event), EventNext s (.hostRead off 4) rest → off.toNat % 4 = 0 →
    off.toNat ≤ 0xFC → s.status.magState ≠ .resultAvailable →
    ∃ v : Word, step s = .next { s with agenda := rest, hostReads := s.hostReads ++ [⟨off, v⟩] } ∧
      (∀ p ∈ [(0x000, 0x53444307#32), (0x004, 0#32), (0x008, s.status.word), (0x00C, s.arg0), (0x010, s.arg1),
          (0x014, s.res0), (0x018, cfgInfoValue), (0x020, s.mag.x), (0x024, s.mag.y), (0x028, s.mag.z),
          (0x02C, s.mag.stat), (0x030, s.mag.normLo), (0x034, s.mag.normHi), (0x040, s.baro.adcT), (0x044, s.baro.adcP),
          (0x048, s.baro.tfineLo), (0x04C, s.baro.tfineHi), (0x050, s.baro.tempLo), (0x054, s.baro.tempHi),
          (0x058, s.baro.pressLo), (0x05C, s.baro.pressHi), (0x060, s.baro.altLo), (0x064, s.baro.altHi),
          (0x080, s.cal.t1), (0x084, s.cal.t2), (0x088, s.cal.t3), (0x08C, s.cal.p1), (0x090, s.cal.p2),
          (0x094, s.cal.p3), (0x098, s.cal.p4), (0x09C, s.cal.p5), (0x0A0, s.cal.p6), (0x0A4, s.cal.p7),
          (0x0A8, s.cal.p8), (0x0AC, s.cal.p9)], off.toNat = p.1 → v = p.2) ∧
      (off.toNat ∈ [0x01C, 0x038, 0x03C, 0x068, 0x06C, 0x070, 0x074, 0x078, 0x07C] ∨ 0x0B0 ≤ off.toNat → v = 0)

/-- 20_memory.md R81: an access that is narrower or wider than 32 bits, or not aligned to 4 bytes, is refused. -/
def Obligations.AccessesOfAnotherShapeAreRefused : Prop :=
  ∀ (s : State) (off v : Word) (bytes : Nat) (rest : List Event), bytes ≠ 4 ∨ off.toNat % 4 ≠ 0 →
    (EventNext s (.hostRead off bytes) rest → step s = .refused .hostAccessShape) ∧
    (EventNext s (.hostWrite off bytes v) rest → step s = .refused .hostAccessShape)

/-- The stops beside R81. A model refuses an instance whose two magnetometer command bytes do not select one mask, that of X,
Y and Z without the temperature channel, which fixes the frame length: every step of it is refused and it runs nothing; where
the author's premise is true of the two bytes, exactly the instances that R13 calls ill-formed are so refused; no step changes
the premise (00_scope.md R12, R13, 93_implementation_defined.md I15; that the premise stands in the state is the model's
choice, log entry 9). Three more stops are the model's choice: an aligned 32-bit access above the window (20_memory.md R80,
log entry 14), a STATUS read in a state with MAG_STATE = ResultAvailable (I17, log entry 15), another bus master during a
command (I16, log entry 16). -/
def Obligations.OutsideContractEventsStop : Prop :=
  (∀ s : State, s.premise.wf = false → step s = .refused .illFormedInstance) ∧
  (∀ p : InstancePremise,
    (p.wf = true ↔ p.startMask = p.readMask ∧ p.startMask.x = true ∧ p.startMask.y = true ∧ p.startMask.z = true ∧
      p.startMask.t = false) ∧
    (p.wf = true → p.readMask.frameLen = magFrameLen)) ∧
  (∀ s : State, PremiseTruthful s.premise →
    (step s = .refused .illFormedInstance ↔
      ¬(Config.axisMaskOf Config.magCmdStart = Config.axisMaskOf Config.magCmdRead ∧
        Config.axisMaskOf Config.magCmdRead = ⟨true, true, true, false⟩))) ∧
  (∀ s t : State, step s = .next t → s.premise.wf = true ∧ t.premise = s.premise) ∧
  ∀ (s : State) (off v : Word) (rest : List Event),
    (off.toNat % 4 = 0 → 0xFC < off.toNat →
      (EventNext s (.hostRead off 4) rest → step s = .refused .hostAccessOutsideWindow) ∧
      (EventNext s (.hostWrite off 4 v) rest → step s = .refused .hostAccessOutsideWindow)) ∧
    (EventNext s (.hostRead 0x008#32 4) rest → s.status.magState = .resultAvailable →
      step s = .fault .magStateNeverRead) ∧
    (EventNext s .otherMaster rest →
      (s.status.busy = true → step s = .refused .otherBusMaster) ∧
      (s.status.busy = false → step s = .next { s with agenda := rest }))

/-- 10_state.md R48: the fields of CFG_INFO, and no step changes what a read of it returns. -/
def Obligations.CfgInfoHoldsTheInstanceParameters : Prop :=
  cfgInfoValue.extractLsb' 0 7 = Config.magBusAddr ∧ cfgInfoValue.getLsbD 7 = false ∧
  cfgInfoValue.extractLsb' 8 7 = Config.baroBusAddr ∧ cfgInfoValue.getLsbD 15 = false ∧
  cfgInfoValue.extractLsb' 16 8 = Config.magCmdStart ∧ cfgInfoValue.extractLsb' 24 8 = Config.magCmdRead ∧
  ∀ s : State, readOffset 0x018#32 s = cfgInfoValue

/-- A reset at any time, also while a command runs, sets every register and STATUS field to its reset value and completes
nothing; it keeps the history and the instance (70_reset_and_hazards.md R290 to R292, R294, 00_scope.md R12). What it adds to
the history are transactions of the command it aborts that had completed (R291), and nothing where no command runs, nothing is
answered, or the command has none on its path (an illegal word, a command without transactions, a failed state check). The
model's choices: the completed ones are those on the path that the bus has answered, `recordCompleted` of the latched command
(log entry 4; `UnansweredCommandsWaitAndResume` gives each); a transaction still unanswered leaves no entry (log entry 20); the
latches' zeros (log entry 1); what happens to the model's own fields (log entry 7). Right after power-on the host reads the
reset column at every offset of the window (10_state.md R30). -/
def Obligations.ResetRestoresEveryRegister : Prop :=
  (∀ (s : State) (rest : List Event), EventNext s .reset rest →
    ∃ t, step s = .next t ∧
      t.status = { busy := false, done := false, cmdOvr := false, err := .ok, magState := .idle, baroState := .uninit,
                   magRv := false, baroRv := false, degen := false, altInv := false } ∧
      t.arg0 = 0 ∧ t.arg1 = 0 ∧ t.res0 = 0 ∧ t.mag = ⟨0, 0, 0, 0, 0, 0⟩ ∧ t.baro = ⟨0, 0, 0, 0, 0, 0, 0, 0, 0, 0⟩ ∧
      t.cal = ⟨0, 0, 0, 0, 0, 0, 0, 0, 0, 0, 0, 0⟩ ∧ t.latch = ⟨0, 0, 0⟩ ∧
      t.agenda = rest ∧ t.hostReads = s.hostReads ∧ t.premise = s.premise ∧
      (∃ new, t.history = s.history ++ new ∧ ∀ e ∈ new, ListedTransaction e) ∧
      (∀ i : Instr, s.status.busy = true → s.latch.lcmd = encode i →
        t.history = (recordCompleted i s).history ∧ t.busIn = (recordCompleted i s).busIn) ∧
      (s.status.busy = false ∨ s.busIn = [] ∨
          (s.latch.lcmd ≠ encode .baroConfigure ∧
            (s.latch.lcmd = encode .magStart → s.status.magState ≠ .idle) ∧
            (s.latch.lcmd = encode .magRead → s.status.magState ≠ .measuringRequested) ∧
            (s.latch.lcmd = encode .baroLoadCal → s.status.baroState = .uninit) ∧
            (s.latch.lcmd = encode .baroRead → s.status.baroState ≠ .ready)) →
        t.history = s.history ∧ t.busIn = s.busIn)) ∧
  (∀ k : Nat, k < 64 → readOffset (BitVec.ofNat 32 (4 * k)) State.reset =
    (if k = 0 then 0x53444307#32 else if k = 6 then cfgInfoValue else 0#32))

/-! ### The commands, each with its next state in full -/

/-- 40_control.md R150: NOP completes with OK and changes nothing else; its word is legal; issued while BUSY = 1 it is dropped
like any CMD write. -/
def Obligations.NopOnlyCompletes : Prop :=
  encode .nop = 0x00000000#32 ∧ decode 0x00000000#32 = .ok .nop ∧
  (∀ s : State, exec .nop s = .next (afterCompletion .ok s)) ∧
  ∀ (s : State) (rest : List Event), EventNext s (.hostWrite 0x004#32 4 (encode .nop)) rest → s.status.busy = true →
    step s = .next { s with agenda := rest, status := { s.status with cmdOvr := true } }

/-- 41_codec.md R165: RES0 is `b0 * 256 + b1`, zero-extended, of the latched ARG0; nothing else changes. -/
def Obligations.DecBeu16WritesRes0 : Prop :=
  encode .decBeu16 = 0x00000001#32 ∧
  ∀ s : State, exec .decBeu16 s =
    .next (afterCompletion .ok { s with
      res0 := BitVec.ofNat 32 (s.latch.larg0.toNat % 256 * 256 + s.latch.larg0.toNat / 256 % 256) })

/-- 41_codec.md R166: RES0 is `b0 * 256 + b1` less 0x10000 when it is 0x8000 or more, sign-extended. -/
def Obligations.DecBes16WritesRes0 : Prop :=
  encode .decBes16 = 0x00000002#32 ∧
  ∀ (s : State) (u : Nat), u = s.latch.larg0.toNat % 256 * 256 + s.latch.larg0.toNat / 256 % 256 →
    exec .decBes16 s =
      .next (afterCompletion .ok { s with res0 := BitVec.ofInt 32 (if 0x8000 ≤ u then (u : Int) - 0x10000 else u) })

/-- 41_codec.md R167: RES0 is `b1 * 256 + b0`, zero-extended. -/
def Obligations.DecLeu16WritesRes0 : Prop :=
  encode .decLeu16 = 0x00000003#32 ∧
  ∀ s : State, exec .decLeu16 s =
    .next (afterCompletion .ok { s with
      res0 := BitVec.ofNat 32 (s.latch.larg0.toNat / 256 % 256 * 256 + s.latch.larg0.toNat % 256) })

/-- 41_codec.md R168: RES0 is `b1 * 256 + b0` less 0x10000 when it is 0x8000 or more, sign-extended. -/
def Obligations.DecLes16WritesRes0 : Prop :=
  encode .decLes16 = 0x00000004#32 ∧
  ∀ (s : State) (u : Nat), u = s.latch.larg0.toNat / 256 % 256 * 256 + s.latch.larg0.toNat % 256 →
    exec .decLes16 s =
      .next (afterCompletion .ok { s with res0 := BitVec.ofInt 32 (if 0x8000 ≤ u then (u : Int) - 0x10000 else u) })

/-- 41_codec.md R169: RES0 is `b0 * 4096 + b1 * 16 + b2 / 16`, zero-extended. -/
def Obligations.DecU20WritesRes0 : Prop :=
  encode .decU20 = 0x00000005#32 ∧
  ∀ s : State, exec .decU20 s =
    .next (afterCompletion .ok { s with
      res0 := BitVec.ofNat 32 (s.latch.larg0.toNat % 256 * 4096 + s.latch.larg0.toNat / 256 % 256 * 16
        + s.latch.larg0.toNat / 65536 % 256 / 16) })

/-- 42_magnetometer.md R185: from Idle, MAG_START issues its one write and goes to MeasuringRequested with MAG_RV = 0 on Ack,
stays Idle with DEVICE_UNRESPONSIVE on Err; from another state it fails with INVALID_STATE and no bus traffic. -/
def Obligations.MagStartFollowsItsRule : Prop :=
  encode .magStart = 0x00000010#32 ∧
  ∀ (s : State) (bytes : List Byte) (rest : List BusAnswer),
    (s.status.magState = .idle → s.busIn = .responds bytes :: rest →
      exec .magStart s = .next (afterCompletion .ok
        (afterTransaction rest (.w Config.magBusAddr (.command Config.magCmdStart) .ack)
          { s with status := { s.status with magState := .measuringRequested, magRv := false } }))) ∧
    (s.status.magState = .idle → s.busIn = .fails :: rest →
      exec .magStart s = .next (afterCompletion .deviceUnresponsive
        (afterTransaction rest (.w Config.magBusAddr (.command Config.magCmdStart) .err) s))) ∧
    (s.status.magState ≠ .idle → exec .magStart s = .next (afterCompletion .invalidState s))

/-- 42_magnetometer.md R186: from MeasuringRequested, MAG_READ issues its one 7-byte read; a frame is decoded and stored with
its magnitude, the state is Idle and MAG_RV = 1; Err (a frame of another length is Err, 20_memory.md R93) gives Idle,
MAG_RV = 0 and SENSOR_UNAVAILABLE; from another state it fails with INVALID_STATE and no bus traffic. -/
def Obligations.MagReadFollowsItsRule : Prop :=
  encode .magRead = 0x00000011#32 ∧
  ∀ (s : State) (b : Vector Byte 7) (a : BusAnswer) (rest : List BusAnswer) (d : MagReading),
    (s.status.magState = .measuringRequested → s.busIn = .responds b.toList :: rest → d = magDecode b →
      exec .magRead s = .next (afterCompletion .ok
        (afterTransaction rest (.r Config.magBusAddr Config.magCmdRead 7 (.data b.toList))
          { s with
            mag := { x := BitVec.ofInt 32 d.x, y := BitVec.ofInt 32 d.y, z := BitVec.ofInt 32 d.z,
                     stat := d.status.zeroExtend 32,
                     normLo := (magnitude d.x d.y d.z).extractLsb' 0 32,
                     normHi := (magnitude d.x d.y d.z).extractLsb' 32 32 }
            status := { s.status with magState := .idle, magRv := true } }))) ∧
    (s.status.magState = .measuringRequested → s.busIn = a :: rest →
      (a = .fails ∨ ∃ bytes, a = .responds bytes ∧ bytes.length ≠ 7) →
      exec .magRead s = .next (afterCompletion .sensorUnavailable
        (afterTransaction rest (.r Config.magBusAddr Config.magCmdRead 7 .err)
          { s with status := { s.status with magState := .idle, magRv := false } }))) ∧
    (s.status.magState ≠ .measuringRequested → exec .magRead s = .next (afterCompletion .invalidState s))

/-- 43_barometer.md R207: in every state BARO_CONFIGURE writes the control register, then the config register; both answered
Ack, UNINIT becomes CONFIGURED and the other states are kept; the first Err drops to UNINIT with BARO_RV = 0 and
DEVICE_UNRESPONSIVE, and no later write is attempted. One step runs the whole command (40_control.md R145). -/
def Obligations.BaroConfigureFollowsItsRule : Prop :=
  encode .baroConfigure = 0x00000020#32 ∧
  ∀ (s : State) (bytes1 bytes2 : List Byte) (rest : List BusAnswer) (ctrl config : BusPayload),
    ctrl = .registerWrite Config.baroRegCtrl Config.baroCtrlValue →
    config = .registerWrite Config.baroRegConfig Config.baroConfigValue →
    (s.busIn = .responds bytes1 :: .responds bytes2 :: rest →
      exec .baroConfigure s = .next (afterCompletion .ok
        (afterTransaction rest (.w Config.baroBusAddr config .ack)
          (afterTransaction rest (.w Config.baroBusAddr ctrl .ack)
            { s with status := { s.status with
                baroState := if s.status.baroState = .uninit then .configured else s.status.baroState } })))) ∧
    (s.busIn = .fails :: rest →
      exec .baroConfigure s = .next (afterCompletion .deviceUnresponsive
        (afterTransaction rest (.w Config.baroBusAddr ctrl .err)
          { s with status := { s.status with baroState := .uninit, baroRv := false } }))) ∧
    (s.busIn = .responds bytes1 :: .fails :: rest →
      exec .baroConfigure s = .next (afterCompletion .deviceUnresponsive
        (afterTransaction rest (.w Config.baroBusAddr config .err)
          (afterTransaction rest (.w Config.baroBusAddr ctrl .ack)
            { s with status := { s.status with baroState := .uninit, baroRv := false } }))))

/-- 43_barometer.md R208: outside UNINIT, BARO_LOAD_CAL issues its one 24-byte read; a block is parsed into the twelve
calibration registers and the state is READY; Err drops to UNINIT with BARO_RV = 0 and DEVICE_UNRESPONSIVE; in UNINIT it
fails with INVALID_STATE and no bus traffic. -/
def Obligations.BaroLoadCalFollowsItsRule : Prop :=
  encode .baroLoadCal = 0x00000021#32 ∧
  ∀ (s : State) (b : Vector Byte 24) (a : BusAnswer) (rest : List BusAnswer) (c : Calib),
    (s.status.baroState ≠ .uninit → s.busIn = .responds b.toList :: rest → c = calParse b →
      exec .baroLoadCal s = .next (afterCompletion .ok
        (afterTransaction rest (.r Config.baroBusAddr Config.baroRegCalib 24 (.data b.toList))
          { s with
            cal := { t1 := BitVec.ofInt 32 c.t1, t2 := BitVec.ofInt 32 c.t2, t3 := BitVec.ofInt 32 c.t3,
                     p1 := BitVec.ofInt 32 c.p1, p2 := BitVec.ofInt 32 c.p2, p3 := BitVec.ofInt 32 c.p3,
                     p4 := BitVec.ofInt 32 c.p4, p5 := BitVec.ofInt 32 c.p5, p6 := BitVec.ofInt 32 c.p6,
                     p7 := BitVec.ofInt 32 c.p7, p8 := BitVec.ofInt 32 c.p8, p9 := BitVec.ofInt 32 c.p9 }
            status := { s.status with baroState := .ready } }))) ∧
    (s.status.baroState ≠ .uninit → s.busIn = a :: rest →
      (a = .fails ∨ ∃ bytes, a = .responds bytes ∧ bytes.length ≠ 24) →
      exec .baroLoadCal s = .next (afterCompletion .deviceUnresponsive
        (afterTransaction rest (.r Config.baroBusAddr Config.baroRegCalib 24 .err)
          { s with status := { s.status with baroState := .uninit, baroRv := false } }))) ∧
    (s.status.baroState = .uninit → exec .baroLoadCal s = .next (afterCompletion .invalidState s))

/-- 43_barometer.md R209: in READY, BARO_READ issues its one 6-byte read; a block is decoded and compensated with the
calibration registers, the instance's SQUARE_ORDER and its POW_F64 (44_compensation.md R230, R244, R247), and the ten result
registers, DEGEN, ALT_INV and BARO_RV are written; Err clears BARO_RV with SENSOR_UNAVAILABLE and stays READY; outside READY
it fails with NOT_INITIALIZED and no bus traffic. -/
def Obligations.BaroReadFollowsItsRule : Prop :=
  encode .baroRead = 0x00000022#32 ∧
  ∀ (s : State) (b : Vector Byte 6) (a : BusAnswer) (rest : List BusAnswer) (res : CompResult),
    (s.status.baroState = .ready → s.busIn = .responds b.toList :: rest →
      res = compensateWith Config.squareOrder powF64 (dataDecode b).adcT (dataDecode b).adcP s.cal.calib →
      exec .baroRead s = .next (afterCompletion .ok
        (afterTransaction rest (.r Config.baroBusAddr Config.baroRegData 6 (.data b.toList))
          { s with
            baro := { adcT := (dataDecode b).adcT.zeroExtend 32, adcP := (dataDecode b).adcP.zeroExtend 32,
                      tfineLo := res.tFine.extractLsb' 0 32, tfineHi := res.tFine.extractLsb' 32 32,
                      tempLo := res.temperature.extractLsb' 0 32, tempHi := res.temperature.extractLsb' 32 32,
                      pressLo := res.pressure.extractLsb' 0 32, pressHi := res.pressure.extractLsb' 32 32,
                      altLo := res.altitude.extractLsb' 0 32, altHi := res.altitude.extractLsb' 32 32 }
            status := { s.status with degen := res.degenerate, altInv := res.altInvalid, baroRv := true } }))) ∧
    (s.status.baroState = .ready → s.busIn = a :: rest →
      (a = .fails ∨ ∃ bytes, a = .responds bytes ∧ bytes.length ≠ 6) →
      exec .baroRead s = .next (afterCompletion .sensorUnavailable
        (afterTransaction rest (.r Config.baroBusAddr Config.baroRegData 6 .err)
          { s with status := { s.status with baroRv := false } }))) ∧
    (s.status.baroState ≠ .ready → exec .baroRead s = .next (afterCompletion .notInitialized s))

/-- 43_barometer.md R210: in READY, BARO_COMPENSATE compensates the codes in bits 19:0 of the latched ARG0 and ARG1, with the
instance's SQUARE_ORDER and POW_F64 (44_compensation.md R230, R244, R247) and no bus traffic; outside READY it fails with
NOT_INITIALIZED. -/
def Obligations.BaroCompensateFollowsItsRule : Prop :=
  encode .baroCompensate = 0x00000023#32 ∧
  ∀ (s : State) (adcT adcP : BitVec 20) (res : CompResult),
    adcT = s.latch.larg0.setWidth 20 → adcP = s.latch.larg1.setWidth 20 →
    (s.status.baroState = .ready → res = compensateWith Config.squareOrder powF64 adcT adcP s.cal.calib →
      exec .baroCompensate s = .next (afterCompletion .ok
        { s with
          baro := { adcT := adcT.zeroExtend 32, adcP := adcP.zeroExtend 32,
                    tfineLo := res.tFine.extractLsb' 0 32, tfineHi := res.tFine.extractLsb' 32 32,
                    tempLo := res.temperature.extractLsb' 0 32, tempHi := res.temperature.extractLsb' 32 32,
                    pressLo := res.pressure.extractLsb' 0 32, pressHi := res.pressure.extractLsb' 32 32,
                    altLo := res.altitude.extractLsb' 0 32, altHi := res.altitude.extractLsb' 32 32 }
          status := { s.status with degen := res.degenerate, altInv := res.altInvalid, baroRv := true } })) ∧
    (s.status.baroState ≠ .ready → exec .baroCompensate s = .next (afterCompletion .notInitialized s))

/-- A command runs only when the bus has answered every transaction on its path; until then it waits unchanged, BUSY with it,
a BARO_CONFIGURE also when its control write alone is acknowledged, and it runs whole once the missing answer is there
(40_control.md R143, R145, 70_reset_and_hazards.md R305). That the wait is a step, which changes nothing, is the model's
choice (log entry 3). A reset in between leaves the transactions that the command had completed in the history (R291): which
those are is the model's choice (log entry 4), the ones on its path that the bus has answered. -/
def Obligations.UnansweredCommandsWaitAndResume : Prop :=
  (∀ s : State, s.busIn = [] →
    (s.status.magState = .idle → exec .magStart s = .next s) ∧
    (s.status.magState = .measuringRequested → exec .magRead s = .next s) ∧
    exec .baroConfigure s = .next s ∧
    (s.status.baroState ≠ .uninit → exec .baroLoadCal s = .next s) ∧
    (s.status.baroState = .ready → exec .baroRead s = .next s)) ∧
  (∀ (s : State) (bytes : List Byte) (a : BusAnswer) (rest : List Event) (ctrl config : BusPayload),
    ctrl = .registerWrite Config.baroRegCtrl Config.baroCtrlValue →
    config = .registerWrite Config.baroRegConfig Config.baroConfigValue →
    s.busIn = [.responds bytes] →
    exec .baroConfigure s = .next s ∧
    (EventNext s (.busAnswer a) rest → ∃ t u, step s = .next t ∧ t.busIn = [.responds bytes, a] ∧
      exec .baroConfigure t = .next u ∧ u.status.busy = false ∧ u.busIn = [] ∧
      u.history = s.history ++ [.w Config.baroBusAddr ctrl .ack, .w Config.baroBusAddr config a.toWrite])) ∧
  (∀ (s : State) (a : BusAnswer) (answers : List BusAnswer) (rest : List Event) (ctrl config : BusPayload),
    ctrl = .registerWrite Config.baroRegCtrl Config.baroCtrlValue →
    config = .registerWrite Config.baroRegConfig Config.baroConfigValue →
    EventNext s .reset rest → s.status.busy = true → s.busIn = a :: answers →
    ∃ t, step s = .next t ∧
      (s.latch.lcmd = encode .magStart → s.status.magState = .idle → t.busIn = answers ∧
        t.history = s.history ++ [.w Config.magBusAddr (.command Config.magCmdStart) a.toWrite]) ∧
      (s.latch.lcmd = encode .magRead → s.status.magState = .measuringRequested → t.busIn = answers ∧
        t.history = s.history ++ [.r Config.magBusAddr Config.magCmdRead 7 (a.toRead 7).record]) ∧
      (s.latch.lcmd = encode .baroLoadCal → s.status.baroState ≠ .uninit → t.busIn = answers ∧
        t.history = s.history ++ [.r Config.baroBusAddr Config.baroRegCalib 24 (a.toRead 24).record]) ∧
      (s.latch.lcmd = encode .baroRead → s.status.baroState = .ready → t.busIn = answers ∧
        t.history = s.history ++ [.r Config.baroBusAddr Config.baroRegData 6 (a.toRead 6).record]) ∧
      (s.latch.lcmd = encode .baroConfigure → a = .fails ∨ answers = [] → t.busIn = answers ∧
        t.history = s.history ++ [.w Config.baroBusAddr ctrl a.toWrite]) ∧
      (s.latch.lcmd = encode .baroConfigure → ∀ bytes a' answers', a = .responds bytes → answers = a' :: answers' →
        t.busIn = answers' ∧
        t.history = s.history ++ [.w Config.baroBusAddr ctrl .ack, .w Config.baroBusAddr config a'.toWrite]))

/-! ### Rules over all commands -/

/-- Every command ends in a completion with one of the codes that 60_exceptions.md R269 lists for it, or, one of the five
that issue transactions, waits for the bus with nothing changed; no command faults and none is refused (40_control.md R143,
R146). R143 has no step while the bus has not answered: that the wait is a step is the model's choice (log entry 3). -/
def Obligations.EveryCommandCompletesOrWaits : Prop :=
  ∀ (i : Instr) (s : State), ∃ t, exec i s = .next t ∧
    ((Completed t ∧ t.status.err ∈ possibleCodes i) ∨ Waiting i s t)

/-- 60_exceptions.md R269: no other combination of command and code occurs; every combination of the table does; an illegal
word completes with ILLEGAL_COMMAND. -/
def Obligations.CompletionCodesAreThoseOfTheTable : Prop :=
  (∀ (i : Instr) (s t : State), s.status.busy = true → exec i s = .next t → t.status.busy = false →
    t.status.err ∈ possibleCodes i) ∧
  (∀ (i : Instr) (code : ErrCode), code ∈ possibleCodes i →
    ∃ s t, s.status.busy = true ∧ exec i s = .next t ∧ t.status.busy = false ∧ t.status.err = code) ∧
  (∀ s : State, EngineNext s → (∀ i, s.latch.lcmd ≠ encode i) →
    ∃ t, step s = .next t ∧ t.status.busy = false ∧ t.status.err = .illegalCommand)

/-- No command writes ARG0, ARG1, CMD_OVR or the latches (40_control.md R147, 10_state.md R45), nor what is outside the
block; and a command uses only the latched copies: whatever ARG0 and ARG1 hold, it does the same (R142, 20_memory.md R106). -/
def Obligations.CommandsNeitherReadNorWriteArguments : Prop :=
  ∀ (i : Instr) (s t : State), exec i s = .next t →
    (t.arg0 = s.arg0 ∧ t.arg1 = s.arg1 ∧ t.status.cmdOvr = s.status.cmdOvr ∧ t.latch = s.latch ∧
      t.agenda = s.agenda ∧ t.hostReads = s.hostReads) ∧
    ∀ v0 v1 : Word, exec i { s with arg0 := v0, arg1 := v1 } = .next { t with arg0 := v0, arg1 := v1 }

/-- A failing command writes no result register, no calibration register, no RES0 and neither flag of the results; what it may
change is MAG_STATE, MAG_RV, BARO_STATE and BARO_RV by the table of 60_exceptions.md R272 (R273). -/
def Obligations.FailuresArePrecise : Prop :=
  ∀ (i : Instr) (s t : State), s.status.busy = true → exec i s = .next t → t.status.busy = false → t.status.err ≠ .ok →
    t.res0 = s.res0 ∧ t.mag = s.mag ∧ t.baro = s.baro ∧ t.cal = s.cal ∧
      t.status = { s.status with
        err := t.status.err
        done := true
        busy := false
        magState := if i = .magRead ∧ t.status.err = .sensorUnavailable then .idle else s.status.magState
        magRv := if i = .magRead ∧ t.status.err = .sensorUnavailable then false else s.status.magRv
        baroState := if (i = .baroConfigure ∨ i = .baroLoadCal) ∧ t.status.err = .deviceUnresponsive then .uninit
          else s.status.baroState
        baroRv := if (i = .baroRead ∧ t.status.err = .sensorUnavailable) ∨
            ((i = .baroConfigure ∨ i = .baroLoadCal) ∧ t.status.err = .deviceUnresponsive) then false
          else s.status.baroRv }

/-- A command that fails its state check issues no bus transaction and uses no answer (60_exceptions.md R264, R266, R270). -/
def Obligations.StateCheckFailuresMakeNoTraffic : Prop :=
  ∀ (i : Instr) (s t : State), s.status.busy = true → exec i s = .next t → t.status.busy = false →
    t.status.err = .invalidState ∨ t.status.err = .notInitialized → t = afterCompletion t.status.err s

/-- Every step only appends to the history, and a command appends at most two transactions, each one of the six that the
command rules list; only the last of them may have failed, since a command stops at its first Err (20_memory.md R92, R94,
R95, R98). Only a step of the engine appends any, and a reset those that the command it aborts had completed
(70_reset_and_hazards.md R291, log entry 4). -/
def Obligations.BusTrafficIsOnlyTheListedTransactions : Prop :=
  ∀ s t : State, step s = .next t →
    ∃ new, t.history = s.history ++ new ∧ new.length ≤ 2 ∧ (∀ e ∈ new, ListedTransaction e) ∧
      (∀ e ∈ new.dropLast, e.failed = false) ∧
      (new ≠ [] → EngineNext s ∨ (s.status.busy = true ∧ ∃ rest, EventNext s .reset rest))

/-! ### Who may change what -/

/-- BUSY is set only by an accepted CMD write and cleared only by a completion, which sets DONE, or by a reset
(10_state.md R34, 40_control.md R146). -/
def Obligations.BusyChangesOnlyAtAcceptanceAndCompletion : Prop :=
  ∀ s t : State, step s = .next t →
    (s.status.busy = false → t.status.busy = true →
      ∃ w rest, s.agenda = .hostWrite 0x004#32 4 w :: rest ∧ t.latch.lcmd = w) ∧
    (s.status.busy = true → t.status.busy = false →
      (∃ rest, s.agenda = .reset :: rest) ∨ (EngineNext s ∧ t.status.done = true))

/-- DONE and CMD_OVR are cleared only by the host writing 1 to their bits or by a reset; DONE is set only by a completion and
CMD_OVR only by a dropped CMD write (10_state.md R35, R36). -/
def Obligations.StickyBitsAreClearedOnlyByTheHost : Prop :=
  ∀ s t : State, step s = .next t →
    (s.status.done = true → t.status.done = false →
      (∃ rest, s.agenda = .reset :: rest) ∨ ∃ v rest, s.agenda = .hostWrite 0x008#32 4 v :: rest ∧ v.getLsbD 1 = true) ∧
    (s.status.done = false → t.status.done = true → EngineNext s ∧ t.status.busy = false) ∧
    (s.status.cmdOvr = true → t.status.cmdOvr = false →
      (∃ rest, s.agenda = .reset :: rest) ∨ ∃ v rest, s.agenda = .hostWrite 0x008#32 4 v :: rest ∧ v.getLsbD 2 = true) ∧
    (s.status.cmdOvr = false → t.status.cmdOvr = true →
      s.status.busy = true ∧ ∃ w rest, s.agenda = .hostWrite 0x004#32 4 w :: rest)

/-- 10_state.md R63: the calibration registers are written together by a successful BARO_LOAD_CAL and by nothing else except
reset. -/
def Obligations.OnlyLoadCalAndResetWriteCalibration : Prop :=
  ∀ s t : State, step s = .next t → t.cal ≠ s.cal →
    (∃ rest, s.agenda = .reset :: rest) ∨
      (EngineNext s ∧ s.latch.lcmd = encode .baroLoadCal ∧ t.status.err = .ok ∧ t.status.baroState = .ready ∧
        ∃ b : Vector Byte 24, calBlockRead b t ∧ t.cal = (calParse b).regs)

/-- The ten barometer result registers, DEGEN and ALT_INV are written by a successful BARO_READ or BARO_COMPENSATE only, and by
reset (10_state.md R60, R42, R43). -/
def Obligations.OnlyCompensationsWriteBarometerResults : Prop :=
  ∀ s t : State, step s = .next t →
    t.baro ≠ s.baro ∨ t.status.degen ≠ s.status.degen ∨ t.status.altInv ≠ s.status.altInv →
    (∃ rest, s.agenda = .reset :: rest) ∨
      (EngineNext s ∧ (s.latch.lcmd = encode .baroRead ∨ s.latch.lcmd = encode .baroCompensate) ∧
        s.status.baroState = .ready ∧ t.status.err = .ok ∧ t.status.baroRv = true)

/-- The magnetometer result registers are written by a successful MAG_READ only, RES0 by a field-decoder command only, and
both by reset (10_state.md R47, R50 to R52). -/
def Obligations.OnlyMagReadAndDecodersWriteTheirResults : Prop :=
  ∀ s t : State, step s = .next t →
    (t.mag ≠ s.mag → (∃ rest, s.agenda = .reset :: rest) ∨
      (EngineNext s ∧ s.latch.lcmd = encode .magRead ∧ t.status.err = .ok ∧ t.status.magRv = true)) ∧
    (t.res0 ≠ s.res0 → (∃ rest, s.agenda = .reset :: rest) ∨
      (EngineNext s ∧ s.latch.lcmd ∈ [encode .decBeu16, encode .decBes16, encode .decLeu16, encode .decLes16,
        encode .decU20] ∧ t.status.err = .ok))

/-- MAG_STATE is changed by MAG_START and MAG_READ only, BARO_STATE by BARO_CONFIGURE and BARO_LOAD_CAL only, and both by reset
(42_magnetometer.md R181, 43_barometer.md R201). -/
def Obligations.OnlyTheirCommandsMoveTheSequencers : Prop :=
  ∀ s t : State, step s = .next t →
    (t.status.magState ≠ s.status.magState → (∃ rest, s.agenda = .reset :: rest) ∨
      (EngineNext s ∧ s.latch.lcmd ∈ [encode .magStart, encode .magRead])) ∧
    (t.status.baroState ≠ s.status.baroState → (∃ rest, s.agenda = .reset :: rest) ∨
      (EngineNext s ∧ s.latch.lcmd ∈ [encode .baroConfigure, encode .baroLoadCal]))

/-! ### Invariants that every step keeps -/

/-- MAG_STATE is never ResultAvailable between steps (10_state.md R38), and MAG_RV is 0 while it is MeasuringRequested
(R40). -/
def Obligations.StepKeepsSequencerSound : Prop :=
  ∀ s t : State, SequencerSound s → step s = .next t → SequencerSound t

/-- The register contents keep their formats: axes and ten coefficients sign-extended, the status byte, the ADC codes, T1 and
P1 zero-extended (10_state.md R50, R51, R55, R62). -/
def Obligations.StepKeepsRegisterFormats : Prop :=
  ∀ s t : State, RegisterFormats s → step s = .next t → RegisterFormats t

/-- Every reading the block shows was computed from bytes the bus gave it: the magnetometer results from a frame in the
history, the calibration in READY from a block in the history, the barometer results with BARO_RV = 1 from a compensation
with such a block (43_barometer.md R204, R211, 10_state.md R40, R41). -/
def Obligations.StepKeepsReadingsGenuine : Prop :=
  ∀ s t : State, ReadingsGenuine s → step s = .next t → ReadingsGenuine t

/-- DEGEN and ALT_INV describe the results they stand with (10_state.md R42, R43, 44_compensation.md R252). -/
def Obligations.StepKeepsFlagsDescribeResults : Prop :=
  ∀ s t : State, FlagsDescribeResults s → step s = .next t → FlagsDescribeResults t

/-- The four invariants hold right after power-on. -/
def Obligations.ResetMeetsTheInvariants : Prop :=
  SequencerSound State.reset ∧ RegisterFormats State.reset ∧ ReadingsGenuine State.reset ∧
    FlagsDescribeResults State.reset

/-! ### Laws of the field functions and the frames -/

/-- 41_codec.md R170: `beInt16` is a bijection from byte pairs onto -32768..32767 with the inverse the rule gives, negative
exactly when the high byte is 0x80 or more; the same for `leInt16` with the bytes swapped. -/
def Obligations.SignedFieldsAreBijections : Prop :=
  (∀ hi lo : Byte, -32768 ≤ beInt16 hi lo ∧ beInt16 hi lo ≤ 32767 ∧
    (beInt16 hi lo % 0x10000) / 256 = hi.toNat ∧ beInt16 hi lo % 256 = lo.toNat ∧
    (beInt16 hi lo < 0 ↔ 0x80 ≤ hi.toNat) ∧ (beInt16 hi lo < 0 ↔ 0x8000 ≤ (beUint16 hi lo).toNat) ∧
    leInt16 lo hi = beInt16 hi lo ∧ leUint16 lo hi = beUint16 hi lo) ∧
  (∀ v : Int, -32768 ≤ v → v ≤ 32767 → ∃ hi lo : Byte, beInt16 hi lo = v ∧ leInt16 lo hi = v ∧
    ∀ hi' lo' : Byte, beInt16 hi' lo' = v → hi' = hi ∧ lo' = lo)

/-- 41_codec.md R171: `u20FromTriplet` is the triplet read as a 24-bit big-endian number, shifted right by 4; it is monotone
in that number and below 2^20. -/
def Obligations.TripletIsMonotoneAndBounded : Prop :=
  ∀ (m l x m' l' x' : Byte) (n n' : Nat), n = m.toNat * 65536 + l.toNat * 256 + x.toNat →
    n' = m'.toNat * 65536 + l'.toNat * 256 + x'.toNat →
    (u20FromTriplet m l x).toNat = n / 16 ∧ (u20FromTriplet m l x).toNat < 2 ^ 20 ∧
    (n ≤ n' → (u20FromTriplet m l x).toNat ≤ (u20FromTriplet m' l' x').toNat)

/-- The places and the signedness of the fields of the three frames (42_magnetometer.md R182, 43_barometer.md R202, R203,
R205). A CalibrationSet in range that is stored in the calibration registers is read back unchanged, and whatever they hold,
`calib()` is in range (R204). -/
def Obligations.FramesDecodeAndCalibrationReadsBack : Prop :=
  (∀ b : Vector Byte 7, magDecode b =
    { status := b[0], x := beInt16 b[1] b[2], y := beInt16 b[3] b[4], z := beInt16 b[5] b[6] }) ∧
  (∀ b : Vector Byte 6, (dataDecode b).adcP = u20FromTriplet b[0] b[1] b[2] ∧
    (dataDecode b).adcT = u20FromTriplet b[3] b[4] b[5]) ∧
  (∀ b : Vector Byte 24, (calParse b).InRange ∧
    (calParse b).t1 = b[0].toNat + 256 * b[1].toNat ∧ (calParse b).t2 = leInt16 b[2] b[3] ∧
    (calParse b).t3 = leInt16 b[4] b[5] ∧ (calParse b).p1 = b[6].toNat + 256 * b[7].toNat ∧
    (calParse b).p2 = leInt16 b[8] b[9] ∧ (calParse b).p3 = leInt16 b[10] b[11] ∧
    (calParse b).p4 = leInt16 b[12] b[13] ∧ (calParse b).p5 = leInt16 b[14] b[15] ∧
    (calParse b).p6 = leInt16 b[16] b[17] ∧ (calParse b).p7 = leInt16 b[18] b[19] ∧
    (calParse b).p8 = leInt16 b[20] b[21] ∧ (calParse b).p9 = leInt16 b[22] b[23]) ∧
  (∀ c : Calib, c.InRange → c.regs.calib = c) ∧ (∀ r : CalRegs, r.calib.InRange)

/-! ### Arithmetic -/

/-- Every conversion of an integer below 2^53 in magnitude is exact, those of the block among them (00_scope.md R16). -/
def Obligations.IntegerConversionIsExact : Prop :=
  ∀ n : Int, n.natAbs < 2 ^ 53 → isFinite (f64 n) = true ∧ toUnits (f64 n) = n * 2 ^ 1074

/-- `⊕ ⊖ ⊗ ⊘` on finite values are each rounded once to nearest, ties to even, wherever the exact result does not round
beyond the largest finite value (00_scope.md R16). That subnormal results, and those between the largest finite value and the
half-way point above it, round in the same way is IEEE 754, which R16 names and does not restate (log entry 13, PRESUMED). -/
def Obligations.ArithmeticRoundsOnceToNearestEven : Prop :=
  ∀ a b : F64, isFinite a = true → isFinite b = true →
    ((toUnits a + toUnits b).natAbs < overflowUnits → IsNearest (fAdd a b) (toUnits a + toUnits b) 1) ∧
    ((toUnits a - toUnits b).natAbs < overflowUnits → IsNearest (fSub a b) (toUnits a - toUnits b) 1) ∧
    ((toUnits a * toUnits b).natAbs < overflowUnits * 2 ^ 1074 →
      IsNearest (fMul a b) (toUnits a * toUnits b) (2 ^ 1074)) ∧
    (toUnits b ≠ 0 → (toUnits a * 2 ^ 1074).natAbs < overflowUnits * (toUnits b).natAbs →
      IsNearest (fDiv a b) (toUnits a * 2 ^ 1074 * (toUnits b).sign) (toUnits b).natAbs)

/-- `sqrt64` of a finite non-negative value is finite, and no finite binary64 is nearer to the real square root
(00_scope.md R16). -/
def Obligations.SquareRootIsCorrectlyRounded : Prop :=
  ∀ a : F64, isFinite a = true → a.msb = false →
    isFinite (fSqrt a) = true ∧ (fSqrt a).msb = false ∧
    ∀ c : F64, isFinite c = true →
      |((toUnits (fSqrt a) : Int) : ℝ) - Real.sqrt ((toUnits a : ℝ) * 2 ^ 1074)| ≤
        |((toUnits c : Int) : ℝ) - Real.sqrt ((toUnits a : ℝ) * 2 ^ 1074)|

/-- The magnitude of an axis triple is the root of the exact sum of squares, a non-negative finite binary64 of at most
56755.84086241697, and it is symmetric in the axes and independent of their signs (42_magnetometer.md R183, R184). -/
def Obligations.MagnitudeIsBoundedAndSymmetric : Prop :=
  ∀ x y z : Int, s16Range x → s16Range y → s16Range z →
    magnitude x y z = fSqrt (f64 (x * x + y * y + z * z)) ∧ x * x + y * y + z * z ≤ 3 * 2 ^ 30 ∧
    toUnits (f64 (x * x + y * y + z * z)) = (x * x + y * y + z * z) * 2 ^ 1074 ∧
    (magnitude x y z).toNat ≤ 0x40EBB67AE8584CAA ∧
    f64Lit 5675584086241697 100000000000 = 0x40EBB67AE8584CAA#64 ∧
    magnitude x y z = magnitude y x z ∧ magnitude x y z = magnitude x z y ∧ magnitude (-x) y z = magnitude x y z

/-- The temperature path with every literal written as its binary64 encoding: 16384.0, 1024.0, 131072.0, 8192.0, 5120.0
(44_compensation.md R231, R233 to R235). -/
def Obligations.TemperaturePathIsTheFormula : Prop :=
  ∀ (order : SquareOrder) (pow : F64 → F64 → F64) (adcT adcP : BitVec 20) (c : Calib) (at' t1 td tFine : F64),
    at' = f64 adcT.toNat → t1 = f64 c.t1 →
    td = fSub (fDiv at' 0x4100000000000000#64) (fDiv t1 0x40C0000000000000#64) →
    tFine = fAdd (fMul (fSub (fDiv at' 0x40D0000000000000#64) (fDiv t1 0x4090000000000000#64)) (f64 c.t2))
      (fMul (fMul td td) (f64 c.t3)) →
    (compensateWith order pow adcT adcP c).tFine = tFine ∧
    (compensateWith order pow adcT adcP c).temperature = fDiv tFine 0x40B4000000000000#64

/-- The pressure path with every literal written as its binary64 encoding: 2.0, 64000.0, 32768.0, 4.0, 65536.0, 524288.0, 1.0,
1048576.0, 4096.0, 6250.0, 2147483648.0, 16.0, 100.0 (44_compensation.md R231, R236 to R244). -/
def Obligations.PressurePathIsTheFormula : Prop :=
  ∀ (order : SquareOrder) (pow : F64 → F64 → F64) (adcT adcP : BitVec 20) (c : Calib) (sq : F64 → F64 → F64)
    (q1 w0 w1 w2 a q2 q3 p0 p1 v9 v8 pa : F64) (res : CompResult),
    res = compensateWith order pow adcT adcP c →
    sq = (fun k v => match order with
      | .squareFirst => fMul k (fMul v v)
      | .leftToRight => fMul (fMul k v) v) →
    q1 = fSub (fDiv res.tFine 0x4000000000000000#64) 0x40EF400000000000#64 →
    w0 = fDiv (fMul (fMul q1 q1) (f64 c.p6)) 0x40E0000000000000#64 →
    w1 = fAdd w0 (fMul (fMul q1 (f64 c.p5)) 0x4000000000000000#64) →
    w2 = fAdd (fDiv w1 0x4010000000000000#64) (fMul (f64 c.p4) 0x40F0000000000000#64) →
    a = fDiv (sq (f64 c.p3) q1) 0x4120000000000000#64 →
    q2 = fDiv (fAdd a (fMul (f64 c.p2) q1)) 0x4120000000000000#64 →
    q3 = fMul (fAdd 0x3FF0000000000000#64 (fDiv q2 0x40E0000000000000#64)) (f64 c.p1) →
    p0 = fSub 0x4130000000000000#64 (f64 adcP.toNat) →
    p1 = fDiv (fMul (fSub p0 (fDiv w2 0x40B0000000000000#64)) 0x40B86A0000000000#64) q3 →
    v9 = fDiv (sq (f64 c.p9) p1) 0x41E0000000000000#64 →
    v8 = fDiv (fMul p1 (f64 c.p8)) 0x40E0000000000000#64 →
    pa = fAdd p1 (fDiv (fAdd (fAdd v9 v8) (f64 c.p7)) 0x4030000000000000#64) →
    (fEq q3 fZero = true → res.degenerate = true ∧ res.pressure = 0x0000000000000000#64) ∧
    (fEq q3 fZero = false → res.degenerate = false ∧ res.pressure = fDiv pa 0x4059000000000000#64) ∧
    (isFinite q3 = true → (res.degenerate = true ↔ toUnits q3 = 0))

/-- The altitude of both paths, literals as encodings: 44330.0, 1.0, 1013.25, 0.1903 (44_compensation.md R245, R246); with a
pressure of +0.0 and a conforming POW_F64 it is 44330.0. The comparisons `=f` and `<f` that pick the paths are those of the
values (00_scope.md R16); that they are false of a NaN is IEEE 754, which R16 names and does not restate: the model's
presumption (log entry 13). -/
def Obligations.AltitudePathIsTheFormula : Prop :=
  (∀ a b : F64, isFinite a = true → isFinite b = true →
    (fLt a b = true ↔ toUnits a < toUnits b) ∧ (fEq a b = true ↔ toUnits a = toUnits b)) ∧
  (∀ a b : F64, isNaN a = true ∨ isNaN b = true → fLt a b = false ∧ fEq a b = false) ∧
  ∀ (order : SquareOrder) (pow : F64 → F64 → F64) (adcT adcP : BitVec 20) (c : Calib) (res : CompResult),
    res = compensateWith order pow adcT adcP c →
    (fLt res.pressure 0x0000000000000000#64 = false → res.altInvalid = false ∧
      res.altitude = fMul 0x40E5A54000000000#64 (fSub 0x3FF0000000000000#64
        (pow (fDiv res.pressure 0x408FAA0000000000#64) 0x3FC85BC01A36E2EB#64))) ∧
    (fLt res.pressure 0x0000000000000000#64 = true → res.altInvalid = true ∧ res.altitude = 0x0000000000000000#64) ∧
    (isFinite res.pressure = true → (res.altInvalid = true ↔ toUnits res.pressure < 0)) ∧
    (PowConforming pow → res.pressure = 0x0000000000000000#64 →
      res.altInvalid = false ∧ res.altitude = 0x40E5A54000000000#64)

/-- The model's POW_F64 has the properties (a) to (c) of 44_compensation.md R247, nothing more is known of it (log entry 11),
and the altitude that it gives is the formula's at every pressure (R245). -/
def Obligations.PowerFunctionConforms : Prop :=
  PowConforming powF64 ∧
  ∀ pressure : F64, compAltitude powF64 pressure =
    fMul 0x40E5A54000000000#64 (fSub 0x3FF0000000000000#64
      (powF64 (fDiv pressure 0x408FAA0000000000#64) 0x3FC85BC01A36E2EB#64))

/-- 44_compensation.md R253: the bits of the reference example under both SQUARE_ORDER settings, which are the binary64 values
nearest to the decimals of the rule; the temperature meets the source's 25.08 within 0.1%, and the pressure is 0.65% from its
1000 (to two places) and so does not meet it within 0.1%. -/
def Obligations.ReferenceExampleGivesTheseBits : Prop :=
  ∀ (order : SquareOrder) (pow : F64 → F64 → F64) (res : CompResult),
    res = compensateWith order pow 519888 415148
      { t1 := 27504, t2 := 26435, t3 := -1000, p1 := 36477, p2 := -10685, p3 := 3024, p4 := 2855, p5 := 140, p6 := -7,
        p7 := 15500, p8 := -14600, p9 := 6000 } →
    res.tFine = 0x40FF5A6497936000#64 ∧ res.temperature = 0x4039151D460F8000#64 ∧
    res.pressure = 0x408F7442E7504A97#64 ∧ res.degenerate = false ∧ res.altInvalid = false ∧
    res.temperature = f64Lit 2508247793081682 100000000000000 ∧ res.pressure = f64Lit 10065326677582515 10000000000000 ∧
    (toUnits res.temperature * 100 - 2508 * 2 ^ 1074).natAbs * 1000 ≤ 2508 * 2 ^ 1074 ∧
    645 * 2 ^ 1074 < (toUnits res.pressure - 1000 * 2 ^ 1074).natAbs * 100 ∧
    (toUnits res.pressure - 1000 * 2 ^ 1074).natAbs * 100 < 655 * 2 ^ 1074

/-- What holds of 44_compensation.md R250. For any argument in range, either SQUARE_ORDER and any POW_F64 there is no NaN and
no infinity in t_fine, temperature and pressure. For a conforming POW_F64 the altitude is no NaN (at a pressure of -0.0 R247
says nothing of the power). The altitude is finite wherever the power that the engine asks for lies from +0.0 up to the
largest of which the formula of R245 is finite, about 4.06e303. R247 does not bound the power: that the model follows R245 and
R247 above it, where R250 does not follow, is log entry 11. -/
def Obligations.EngineOutputsAreFinite : Prop :=
  ∀ (order : SquareOrder) (pow : F64 → F64 → F64) (adcT adcP : BitVec 20) (c : Calib) (res : CompResult) (p : F64),
    c.InRange → res = compensateWith order pow adcT adcP c → p = pow (fDiv res.pressure 0x408FAA0000000000#64) altExponent →
    isFinite res.tFine = true ∧ isFinite res.temperature = true ∧ isFinite res.pressure = true ∧
    (PowConforming pow → res.pressure ≠ 0x8000000000000000#64 → isNaN res.altitude = false) ∧
    (p.toNat ≤ 0x7EF7A763F09DA17F → isFinite res.altitude = true)

/-- 44_compensation.md R250 read literally: the altitude, which is the formula of R245 where the pressure is not negative, is
finite for EVERY POW_F64 with the properties (a) to (c) of R247. They allow a power near the largest binary64, and 44330.0
times it overflows, so this is expected to fail (log entry 11). -/
def Obligations.AltitudeFormulaIsFiniteForEveryConformingPower : Prop :=
  ∀ (order : SquareOrder) (pow : F64 → F64 → F64) (adcT adcP : BitVec 20) (c : Calib) (res : CompResult),
    PowConforming pow → c.InRange → res = compensateWith order pow adcT adcP c →
    isFinite res.altitude = true ∧
    (fLt res.pressure 0x0000000000000000#64 = false →
      isFinite (fMul 0x40E5A54000000000#64 (fSub 0x3FF0000000000000#64
        (pow (fDiv res.pressure 0x408FAA0000000000#64) 0x3FC85BC01A36E2EB#64))) = true)

/-- When the degenerate path is taken and what it gives: exactly when q3 is zero, that is when P1 = 0 or the factor
`1.0 ⊕ (q2 ⊘ 32768.0)` is zero; then the pressure is +0.0, the altitude 44330.0 and ALT_INV 0, so DEGEN and ALT_INV never hold
together (44_compensation.md R252). -/
def Obligations.DegeneratePathIsExactlyItsTwoCases : Prop :=
  ∀ (order : SquareOrder) (pow : F64 → F64 → F64) (adcT adcP : BitVec 20) (c : Calib) (res : CompResult)
    (q1 a q2 factor : F64),
    PowConforming pow → c.InRange → res = compensateWith order pow adcT adcP c →
    q1 = fSub (fDiv res.tFine 0x4000000000000000#64) 0x40EF400000000000#64 →
    a = fDiv (compSq order (f64 c.p3) q1) 0x4120000000000000#64 →
    q2 = fDiv (fAdd a (fMul (f64 c.p2) q1)) 0x4120000000000000#64 →
    factor = fAdd 0x3FF0000000000000#64 (fDiv q2 0x40E0000000000000#64) →
    (res.degenerate = true ↔ fEq (fMul factor (f64 c.p1)) 0x0000000000000000#64 = true) ∧
    (res.degenerate = true ↔ c.p1 = 0 ∨ fEq factor 0x0000000000000000#64 = true) ∧
    ¬(res.degenerate = true ∧ res.altInvalid = true) ∧
    (res.degenerate = true →
      res.pressure = 0x0000000000000000#64 ∧ res.altitude = 0x40E5A54000000000#64 ∧ res.altInvalid = false)

/-- BARO_READ and BARO_COMPENSATE on the same codes and calibration give equal result registers and flags, whatever else the two
states hold (44_compensation.md R249). -/
def Obligations.ReadAndCompensateAgree : Prop :=
  ∀ (s s' t t' : State) (b : Vector Byte 6) (rest : List BusAnswer),
    s.status.baroState = .ready → s'.status.baroState = .ready → s.cal = s'.cal →
    s.busIn = .responds b.toList :: rest →
    s'.latch.larg0.toNat % 2 ^ 20 = (dataDecode b).adcT.toNat →
    s'.latch.larg1.toNat % 2 ^ 20 = (dataDecode b).adcP.toNat →
    exec .baroRead s = .next t → exec .baroCompensate s' = .next t' →
    t.baro = t'.baro ∧ t.status.degen = t'.status.degen ∧ t.status.altInv = t'.status.altInv ∧
      t.status.baroRv = true ∧ t'.status.baroRv = true
end

