-- ==== Sys2Proof/Laws/Codec.lean ====
section
/-! SUPPORT. What each field function and operand of Machine/Operands.lean is as a number, said once. -/

namespace Sys2Proof.Machine

/-- A byte lane of a latched operand is a base-256 digit (30_encoding.md R116). -/
theorem laneByte_toNat (i : Nat) (l : Word) : (laneByte i l).toNat = l.toNat / 2 ^ (8 * i) % 256 := by
  simp [laneByte, BitVec.extractLsb'_toNat, Nat.shiftRight_eq_div_pow]

/-- The ADC code of an operand is its value modulo 2^20 (30_encoding.md R117). -/
theorem adcOperand_toNat (l : Word) : (adcOperand l).toNat = l.toNat % 2 ^ 20 := by
  simp [adcOperand, BitVec.extractLsb'_toNat]

theorem adcOperand_eq_setWidth (l : Word) : adcOperand l = l.setWidth 20 := by
  apply BitVec.eq_of_toNat_eq; rw [adcOperand_toNat, BitVec.toNat_setWidth]

/-- The number that `beUint16` reads (41_codec.md R160). -/
theorem beUint16_toNat (hi lo : Byte) : (beUint16 hi lo).toNat = hi.toNat * 256 + lo.toNat := by
  have h1 := hi.isLt
  have h2 := lo.isLt
  have e1 : (hi.setWidth 16 <<< 8).toNat = hi.toNat <<< 8 := by
    rw [BitVec.toNat_shiftLeft, BitVec.toNat_setWidth, Nat.shiftLeft_eq, Nat.mod_eq_of_lt (b := 2 ^ 16) (by omega),
      Nat.mod_eq_of_lt (by omega), Nat.shiftLeft_eq]
  have e2 : (lo.setWidth 16).toNat = lo.toNat := by
    rw [BitVec.toNat_setWidth, Nat.mod_eq_of_lt (by omega)]
  unfold beUint16
  rw [BitVec.toNat_or, e1, e2, ← Nat.shiftLeft_add_eq_or_of_lt h2, Nat.shiftLeft_eq]

/-- The number that `leUint16` reads (41_codec.md R162). -/
theorem leUint16_toNat (lo hi : Byte) : (leUint16 lo hi).toNat = hi.toNat * 256 + lo.toNat := beUint16_toNat hi lo

/-- The number that `u20FromTriplet` reads (41_codec.md R164). -/
theorem u20FromTriplet_toNat (m l x : Byte) :
    (u20FromTriplet m l x).toNat = m.toNat * 4096 + l.toNat * 16 + x.toNat / 16 := by
  have h1 := m.isLt
  have h2 := l.isLt
  have h3 := x.isLt
  have e1 : (m.setWidth 20 <<< 12).toNat = (m.toNat <<< 8) <<< 4 := by
    rw [BitVec.toNat_shiftLeft, BitVec.toNat_setWidth, Nat.shiftLeft_eq, Nat.mod_eq_of_lt (b := 2 ^ 20) (by omega),
      Nat.mod_eq_of_lt (by omega), Nat.shiftLeft_eq, Nat.shiftLeft_eq]
    omega
  have e2 : (l.setWidth 20 <<< 4).toNat = l.toNat <<< 4 := by
    rw [BitVec.toNat_shiftLeft, BitVec.toNat_setWidth, Nat.shiftLeft_eq, Nat.mod_eq_of_lt (b := 2 ^ 20) (by omega),
      Nat.mod_eq_of_lt (by omega), Nat.shiftLeft_eq]
  have e3 : ((x >>> 4).setWidth 20).toNat = x.toNat / 16 := by
    rw [BitVec.toNat_setWidth, BitVec.toNat_ushiftRight, Nat.shiftRight_eq_div_pow]; exact Nat.mod_eq_of_lt (by omega)
  unfold u20FromTriplet
  rw [BitVec.toNat_or, BitVec.toNat_or, e1, e2, e3, ← Nat.shiftLeft_or_distrib, ← Nat.shiftLeft_add_eq_or_of_lt h2,
    ← Nat.shiftLeft_add_eq_or_of_lt (by omega), Nat.shiftLeft_eq, Nat.shiftLeft_eq]
  omega

/-- `tc16` is the two's-complement value (00_scope.md R15). -/
theorem tc16_eq_toInt (u : BitVec 16) : tc16 u = u.toInt := by
  unfold tc16; rw [BitVec.toInt_eq_toNat_cond]; split <;> split <;> omega

theorem tc16_range (u : BitVec 16) : s16Range (tc16 u) := by
  have := u.isLt
  unfold tc16; constructor <;> split <;> omega

theorem beInt16_range (hi lo : Byte) : s16Range (beInt16 hi lo) := tc16_range _
theorem leInt16_range (lo hi : Byte) : s16Range (leInt16 lo hi) := tc16_range _

/-- The sign extension of a signed 16-bit value keeps the register format of 10_state.md R50. -/
theorem signExtended16_sext32 {v : Int} (h : s16Range v) : signExtended16 (sext32 v) := by
  obtain ⟨h1, h2⟩ := h
  intro i hi hi'
  have e : sext32 v = (BitVec.ofInt 16 v).signExtend 32 := by
    apply BitVec.eq_of_toInt_eq
    rw [BitVec.toInt_signExtend_of_le (by decide)]
    unfold sext32
    rw [BitVec.toInt_ofInt, BitVec.toInt_ofInt, Int.bmod_eq_of_le (by omega) (by omega),
      Int.bmod_eq_of_le (by omega) (by omega)]
  have m : (BitVec.ofInt 16 v).msb = (BitVec.ofInt 16 v).getLsbD 15 := BitVec.msb_eq_getLsbD_last _
  rw [e, BitVec.getLsbD_signExtend, BitVec.getLsbD_signExtend]
  simp [show ¬ i < 16 by omega, hi', m]

/-- A zero-extended unsigned coefficient keeps the register format of 10_state.md R62. -/
theorem zextCoeff_lt {v : Int} (h : u16Range v) : (zextCoeff v).toNat < 2 ^ 16 := by
  obtain ⟨h1, h2⟩ := h
  unfold zextCoeff
  rw [BitVec.toNat_ofNat]
  have : v.toNat < 2 ^ 16 := by omega
  exact lt_of_le_of_lt (Nat.mod_le _ _) this

theorem zext32_toNat {n : Nat} (hn : n ≤ 32) (v : BitVec n) : (zext32 v).toNat = v.toNat := by
  unfold zext32
  rw [BitVec.toNat_setWidth]
  exact Nat.mod_eq_of_lt (lt_of_lt_of_le v.isLt (Nat.pow_le_pow_right (by norm_num) hn))

end Sys2Proof.Machine
end

