-- ==== Sys2Proof/Laws/Float64.lean ====
section
/-! SUPPORT. The rounding of Machine/Float64.lean: what `roundDiv` and `roundBits` answer, that they are monotone and exact on
representable values, and the bounds that each operation keeps. -/

namespace Sys2Proof.Machine

/-! ### Rounding a quotient to an integer -/

/-- `roundDiv` is within half of the exact quotient, and even when it is exactly half off. -/
theorem roundDiv_spec {num den : Nat} (hd : 0 < den) :
    2 * (roundDiv num den * den) ≤ 2 * num + den ∧ 2 * num ≤ 2 * (roundDiv num den * den) + den ∧
      ((2 * (roundDiv num den * den) = 2 * num + den ∨ 2 * num = 2 * (roundDiv num den * den) + den) →
        roundDiv num den % 2 = 0) := by
  have hdm : den * (num / den) + num % den = num := Nat.div_add_mod num den
  have hlt : num % den < den := Nat.mod_lt num hd
  have hc : num / den * den = den * (num / den) := Nat.mul_comm ..
  unfold roundDiv
  simp only []
  split
  · rw [hc]; refine ⟨by omega, by omega, fun h => by omega⟩
  · split
    · rw [Nat.add_mul, hc, Nat.one_mul]; refine ⟨by omega, by omega, fun h => by omega⟩
    · rcases Nat.mod_two_eq_zero_or_one (num / den) with hp | hp
      · rw [hp, Nat.add_zero, hc]; exact ⟨by omega, by omega, fun _ => hp⟩
      · rw [hp, Nat.add_mul, hc, Nat.one_mul]; exact ⟨by omega, by omega, fun _ => by omega⟩

/-- `roundDiv` is monotone in the quotient. -/
theorem roundDiv_mono {a b c d : Nat} (hb : 0 < b) (hd : 0 < d) (h : a * d ≤ c * b) : roundDiv a b ≤ roundDiv c d := by
  by_contra hlt
  push Not at hlt
  obtain ⟨h1, -, e1⟩ := roundDiv_spec (num := a) hb
  obtain ⟨-, h2, e2⟩ := roundDiv_spec (num := c) hd
  generalize roundDiv a b = r at *
  generalize roundDiv c d = r' at *
  have k1 : (2 * (r * b)) * d ≤ (2 * a + b) * d := Nat.mul_le_mul_right d h1
  have k2 : (2 * c) * b ≤ (2 * (r' * d) + d) * b := Nat.mul_le_mul_right b h2
  have k3 : (r' + 1) * (b * d) ≤ r * (b * d) := Nat.mul_le_mul_right _ hlt
  have k4 : (2 * (r * b)) * d = 2 * (r * (b * d)) := by ring
  have k5 : (2 * a + b) * d = 2 * (a * d) + b * d := by ring
  have k6 : (2 * c) * b = 2 * (c * b) := by ring
  have k7 : (2 * (r' * d) + d) * b = 2 * (r' * (b * d)) + b * d := by ring
  have k8 : (r' + 1) * (b * d) = r' * (b * d) + b * d := by ring
  have hpos : 0 < b * d := Nat.mul_pos hb hd
  have hr : r = r' + 1 := by
    have : r * (b * d) = (r' + 1) * (b * d) := by omega
    exact Nat.eq_of_mul_eq_mul_right hpos this
  have t1 : 2 * (r * b) = 2 * a + b := by
    have : (2 * (r * b)) * d = (2 * a + b) * d := by omega
    exact Nat.eq_of_mul_eq_mul_right hd this
  have t2 : 2 * c = 2 * (r' * d) + d := by
    have : (2 * c) * b = (2 * (r' * d) + d) * b := by omega
    exact Nat.eq_of_mul_eq_mul_right hb this
  have := e1 (.inl t1)
  have := e2 (.inr t2)
  omega

/-- `roundDiv` is exact on a whole quotient. -/
theorem roundDiv_mul {n den : Nat} (hd : 0 < den) : roundDiv (n * den) den = n := by
  simp [roundDiv, Nat.mul_div_cancel n hd, Nat.mul_mod_left, hd]

/-- No integer is nearer to the quotient than `roundDiv`, and it is even where another is as near. -/
theorem roundDiv_nearest {num den : Nat} (hd : 0 < den) (m : Nat) :
    ((roundDiv num den * den : Nat) - num : Int).natAbs ≤ ((m * den : Nat) - num : Int).natAbs ∧
      (((roundDiv num den * den : Nat) - num : Int).natAbs = ((m * den : Nat) - num : Int).natAbs →
        m = roundDiv num den ∨ roundDiv num den % 2 = 0) := by
  obtain ⟨h1, h2, h3⟩ := roundDiv_spec (num := num) hd
  generalize roundDiv num den = r at *
  rcases Nat.lt_trichotomy m r with h | h | h
  · have k : m * den + den ≤ r * den := by
      have := Nat.mul_le_mul_right den (Nat.succ_le_of_lt h); rwa [Nat.succ_mul] at this
    refine ⟨by omega, fun e => .inr (h3 ?_)⟩
    left; omega
  · subst h; exact ⟨le_refl _, fun _ => .inl rfl⟩
  · have k : r * den + den ≤ m * den := by
      have := Nat.mul_le_mul_right den (Nat.succ_le_of_lt h); rwa [Nat.succ_mul] at this
    refine ⟨by omega, fun e => .inr (h3 ?_)⟩
    right; omega

/-! ### The encodings as numbers of units -/

/-- An encoding in terms of its last place `k` and its significand `n`. -/
theorem unitsOfBits_eq {k n : Nat} (hk : k = 0 ∨ 2 ^ 52 ≤ n) (hn : n ≤ 2 ^ 53) :
    unitsOfBits (k * 2 ^ 52 + n) = n * 2 ^ k := by
  unfold unitsOfBits
  rcases Nat.lt_or_ge n (2 ^ 52) with h | h
  · have hk0 : k = 0 := by omega
    subst hk0
    rw [Nat.zero_mul, Nat.zero_add, if_pos h, Nat.pow_zero, Nat.mul_one]
  · have hb : ¬ (k * 2 ^ 52 + n < 2 ^ 52) := by omega
    rw [if_neg hb]
    rcases Nat.lt_or_ge n (2 ^ 53) with h' | h'
    · have e1 : (k * 2 ^ 52 + n) % 2 ^ 52 = n - 2 ^ 52 := by omega
      have e2 : (k * 2 ^ 52 + n) / 2 ^ 52 = k + 1 := by omega
      rw [e1, e2, Nat.add_sub_cancel, Nat.add_sub_cancel' h]
    · have hn' : n = 2 ^ 53 := by omega
      subst hn'
      have e1 : (k * 2 ^ 52 + 2 ^ 53) % 2 ^ 52 = 0 := by omega
      have e2 : (k * 2 ^ 52 + 2 ^ 53) / 2 ^ 52 = k + 2 := by omega
      rw [e1, e2, Nat.add_zero, show k + 2 - 1 = k + 1 by omega, Nat.pow_succ]; ring

/-- Every encoding has a last place and a significand below 2^53. -/
theorem bits_split (bits : Nat) :
    ∃ k n, bits = k * 2 ^ 52 + n ∧ (k = 0 ∨ 2 ^ 52 ≤ n) ∧ n < 2 ^ 53 := by
  refine ⟨bits / 2 ^ 52 - 1, bits - (bits / 2 ^ 52 - 1) * 2 ^ 52, ?_, ?_, ?_⟩ <;> omega

/-- The order of encodings is the order of magnitudes. -/
theorem unitsOfBits_strictMono {a b : Nat} (h : a < b) : unitsOfBits a < unitsOfBits b := by
  obtain ⟨k, n, rfl, hk, hn⟩ := bits_split a
  obtain ⟨k', n', rfl, hk', hn'⟩ := bits_split b
  rw [unitsOfBits_eq hk hn.le, unitsOfBits_eq hk' hn'.le]
  rcases Nat.lt_trichotomy k k' with hkk | rfl | hkk
  · have h52 : 2 ^ 52 ≤ n' := by omega
    calc n * 2 ^ k < 2 ^ 53 * 2 ^ k := Nat.mul_lt_mul_of_pos_right hn (Nat.two_pow_pos k)
      _ = 2 ^ 52 * 2 ^ (k + 1) := by rw [Nat.pow_succ]; ring
      _ ≤ 2 ^ 52 * 2 ^ k' := Nat.mul_le_mul_left _ (Nat.pow_le_pow_right (by norm_num) hkk)
      _ ≤ n' * 2 ^ k' := Nat.mul_le_mul_right _ h52
  · exact Nat.mul_lt_mul_of_pos_right (by omega) (Nat.two_pow_pos k)
  · omega

theorem unitsOfBits_le {a b : Nat} : unitsOfBits a ≤ unitsOfBits b ↔ a ≤ b := by
  constructor
  · intro h; by_contra hlt; push Not at hlt; exact absurd (unitsOfBits_strictMono hlt) (by omega)
  · intro h; rcases Nat.eq_or_lt_of_le h with rfl | h
    · exact le_refl _
    · exact (unitsOfBits_strictMono h).le

theorem unitsOfBits_inj {a b : Nat} (h : unitsOfBits a = unitsOfBits b) : a = b :=
  le_antisymm (unitsOfBits_le.1 h.le) (unitsOfBits_le.1 h.ge)

@[simp] theorem unitsOfBits_zero : unitsOfBits 0 = 0 := by simp [unitsOfBits]

/-- A power of two from 2^52 units on is an encoding. -/
theorem unitsOfBits_pow {t : Nat} (ht : 52 ≤ t) : unitsOfBits ((t - 51) * 2 ^ 52) = 2 ^ t := by
  have h := unitsOfBits_eq (k := t - 52) (n := 2 ^ 52) (.inr (le_refl _)) (by norm_num)
  have e : (t - 52) * 2 ^ 52 + 2 ^ 52 = (t - 51) * 2 ^ 52 := by omega
  have e2 : 52 + (t - 52) = t := by omega
  rw [← e, h, ← Nat.pow_add, e2]

/-! ### Rounding to an encoding -/

/-- What `roundBits` answers before the overflow check: the last place `k`, the significand, and where the exact value lies. -/
theorem roundBits_spec {num den : Nat} (hd : 0 < den) :
    ∃ k n, (k = 0 ∨ 2 ^ 52 ≤ n) ∧ n ≤ 2 ^ 53 ∧ n = roundDiv num (den * 2 ^ k) ∧
      (k = 0 ∨ 2 ^ 52 * (den * 2 ^ k) ≤ num) ∧ num < 2 ^ 53 * (den * 2 ^ k) ∧
      k = (num / den).log2 - 52 ∧
      roundBits num den = if k * 2 ^ 52 + n < infBits then k * 2 ^ 52 + n else infBits := by
  set q := num / den with hq
  set k := q.log2 - 52 with hk
  have hpos : 0 < den * 2 ^ k := Nat.mul_pos hd (Nat.two_pow_pos k)
  have hup : num < 2 ^ 53 * (den * 2 ^ k) := by
    have h1 : q < 2 ^ (q.log2 + 1) := Nat.lt_log2_self
    have h2 : (2 : Nat) ^ (q.log2 + 1) ≤ 2 ^ (53 + k) := Nat.pow_le_pow_right (by norm_num) (by omega)
    have h3 : num < (q + 1) * den := by
      rw [hq, Nat.mul_comm]; exact Nat.lt_mul_div_succ num hd
    calc num < (q + 1) * den := h3
      _ ≤ 2 ^ (53 + k) * den := Nat.mul_le_mul_right _ (by omega)
      _ = 2 ^ 53 * (den * 2 ^ k) := by rw [Nat.pow_add]; ring
  have hlow : k = 0 ∨ 2 ^ 52 * (den * 2 ^ k) ≤ num := by
    rcases Nat.eq_zero_or_pos k with h | h
    · exact .inl h
    · right
      have hq0 : q ≠ 0 := by rintro h0; simp [h0] at hk; omega
      have h1 : 2 ^ q.log2 ≤ q := Nat.log2_self_le hq0
      have h2 : (2 : Nat) ^ (52 + k) ≤ q := by rwa [show 52 + k = q.log2 by omega]
      calc 2 ^ 52 * (den * 2 ^ k) = 2 ^ (52 + k) * den := by rw [Nat.pow_add]; ring
        _ ≤ q * den := Nat.mul_le_mul_right _ h2
        _ ≤ num := Nat.div_mul_le_self num den
  refine ⟨k, roundDiv num (den * 2 ^ k), ?_, ?_, rfl, hlow, hup, rfl, rfl⟩
  · rcases hlow with h | h
    · exact .inl h
    · right
      have := roundDiv_mono (a := 2 ^ 52 * (den * 2 ^ k)) (b := den * 2 ^ k) (c := num) hpos hpos
        (Nat.mul_le_mul_right _ h)
      rwa [roundDiv_mul hpos] at this
  · have := roundDiv_mono (c := 2 ^ 53 * (den * 2 ^ k)) (d := den * 2 ^ k) (a := num) hpos hpos
      (Nat.mul_le_mul_right _ hup.le)
    rwa [roundDiv_mul hpos] at this

theorem roundBits_le_infBits (num den : Nat) : roundBits num den ≤ infBits := by
  unfold roundBits; simp only []; split
  · rename_i h; exact h.le
  · exact le_refl _

/-- `roundBits` is monotone in the quotient. -/
theorem roundBits_mono {a b c d : Nat} (hb : 0 < b) (hd : 0 < d) (h : a * d ≤ c * b) :
    roundBits a b ≤ roundBits c d := by
  obtain ⟨k, n, hk, hn, en, -, -, ek, e⟩ := roundBits_spec (num := a) hb
  obtain ⟨k', n', hk', hn', en', -, -, ek', e'⟩ := roundBits_spec (num := c) hd
  have hq : a / b ≤ c / d := by
    rw [Nat.le_div_iff_mul_le hd]
    have h1 : a / b * b ≤ a := Nat.div_mul_le_self a b
    have h2 : a / b * d * b ≤ c * b := by
      calc a / b * d * b = a / b * b * d := by ring
        _ ≤ a * d := Nat.mul_le_mul_right _ h1
        _ ≤ c * b := h
    exact Nat.le_of_mul_le_mul_right h2 hb
  have hkk : k ≤ k' := by
    have hlog : (a / b).log2 ≤ (c / d).log2 := by
      rw [Nat.log2_eq_log_two, Nat.log2_eq_log_two]; exact Nat.log_mono_right hq
    omega
  have key : k * 2 ^ 52 + n ≤ k' * 2 ^ 52 + n' := by
    rcases Nat.eq_or_lt_of_le hkk with rfl | hlt
    · have : n ≤ n' := by
        rw [en, en']
        apply roundDiv_mono (Nat.mul_pos hb (Nat.two_pow_pos k)) (Nat.mul_pos hd (Nat.two_pow_pos k))
        calc a * (d * 2 ^ k) = a * d * 2 ^ k := by ring
          _ ≤ c * b * 2 ^ k := Nat.mul_le_mul_right _ h
          _ = c * (b * 2 ^ k) := by ring
      omega
    · have : 2 ^ 52 ≤ n' := by omega
      omega
  rw [e, e']; split <;> split <;> omega

/-- `roundBits` is exact on the units of an encoding. -/
theorem roundBits_exact {bits den : Nat} (hd : 0 < den) (hb : bits < infBits) :
    roundBits (unitsOfBits bits * den) den = bits := by
  obtain ⟨k0, n0, rfl, hk0, hn0⟩ := bits_split bits
  rw [unitsOfBits_eq hk0 hn0.le]
  obtain ⟨k, n, hk, hn, en, hlow, hup, -, e⟩ := roundBits_spec (num := n0 * 2 ^ k0 * den) hd
  have hlow' : k = 0 ∨ 2 ^ 52 * 2 ^ k ≤ n0 * 2 ^ k0 := by
    rcases hlow with h | h
    · exact .inl h
    · right
      have h' : 2 ^ 52 * 2 ^ k * den ≤ n0 * 2 ^ k0 * den := by
        calc 2 ^ 52 * 2 ^ k * den = 2 ^ 52 * (den * 2 ^ k) := by ring
          _ ≤ _ := h
      exact Nat.le_of_mul_le_mul_right h' hd
  have hup' : n0 * 2 ^ k0 < 2 ^ 53 * 2 ^ k := by
    have h' : n0 * 2 ^ k0 * den < 2 ^ 53 * 2 ^ k * den := by
      calc _ < 2 ^ 53 * (den * 2 ^ k) := hup
        _ = _ := by ring
    exact Nat.lt_of_mul_lt_mul_right h'
  have hkk : k = k0 := by
    rcases Nat.lt_trichotomy k k0 with h | h | h
    · exfalso
      have h52 : 2 ^ 52 ≤ n0 := by omega
      have : 2 ^ 53 * 2 ^ k ≤ n0 * 2 ^ k0 := by
        calc 2 ^ 53 * 2 ^ k = 2 ^ 52 * 2 ^ (k + 1) := by rw [Nat.pow_succ]; ring
          _ ≤ 2 ^ 52 * 2 ^ k0 := Nat.mul_le_mul_left _ (Nat.pow_le_pow_right (by norm_num) h)
          _ ≤ n0 * 2 ^ k0 := Nat.mul_le_mul_right _ h52
      omega
    · exact h
    · exfalso
      have h1 : 2 ^ 52 * 2 ^ k ≤ n0 * 2 ^ k0 := by omega
      have : n0 * 2 ^ k0 < 2 ^ 52 * 2 ^ k := by
        calc n0 * 2 ^ k0 < 2 ^ 53 * 2 ^ k0 := Nat.mul_lt_mul_of_pos_right hn0 (Nat.two_pow_pos _)
          _ = 2 ^ 52 * 2 ^ (k0 + 1) := by rw [Nat.pow_succ]; ring
          _ ≤ 2 ^ 52 * 2 ^ k := Nat.mul_le_mul_left _ (Nat.pow_le_pow_right (by norm_num) h)
      omega
  subst hkk
  have hn' : n = n0 := by
    rw [en, show n0 * 2 ^ k * den = n0 * (den * 2 ^ k) by ring, roundDiv_mul (Nat.mul_pos hd (Nat.two_pow_pos k))]
  rw [e, hn', if_pos hb]

/-- A value of at most an encoding's units rounds to at most that encoding. -/
theorem roundBits_le_of_le {num den bits : Nat} (hd : 0 < den) (hb : bits < infBits)
    (h : num ≤ unitsOfBits bits * den) : roundBits num den ≤ bits := by
  rw [← roundBits_exact hd hb]
  exact roundBits_mono hd hd (Nat.mul_le_mul_right _ h)

/-- A value of at least an encoding's units rounds to at least that encoding. -/
theorem le_roundBits_of_le {num den bits : Nat} (hd : 0 < den) (hb : bits < infBits)
    (h : unitsOfBits bits * den ≤ num) : bits ≤ roundBits num den := by
  conv_lhs => rw [← roundBits_exact hd hb]
  exact roundBits_mono hd hd (Nat.mul_le_mul_right _ h)

@[simp] theorem roundBits_zero (den : Nat) : roundBits 0 den = 0 := by
  simp [roundBits, roundDiv, Nat.log2_zero]

/-- A value of at most `2 ^ t` units rounds to at most `2 ^ t` units, and is finite. -/
theorem roundBits_le_pow {num den t : Nat} (hd : 0 < den) (h52 : 52 ≤ t) (ht : t ≤ 2097) (h : num ≤ 2 ^ t * den) :
    roundBits num den < infBits ∧ unitsOfBits (roundBits num den) ≤ 2 ^ t := by
  have hb : (t - 51) * 2 ^ 52 < infBits := by have e : infBits = 2047 * 2 ^ 52 := rfl; omega
  have hle := roundBits_le_of_le (num := num) hd hb (by rw [unitsOfBits_pow h52]; exact h)
  exact ⟨lt_of_le_of_lt hle hb, by rw [← unitsOfBits_pow h52]; exact unitsOfBits_le.2 hle⟩

/-- A value of at least `2 ^ t` units rounds to at least `2 ^ t` units. -/
theorem pow_le_roundBits {num den t : Nat} (hd : 0 < den) (h52 : 52 ≤ t) (ht : t ≤ 2097) (h : 2 ^ t * den ≤ num) :
    2 ^ t ≤ unitsOfBits (roundBits num den) := by
  have hb : (t - 51) * 2 ^ 52 < infBits := by have e : infBits = 2047 * 2 ^ 52 := rfl; omega
  have hle := le_roundBits_of_le (num := num) hd hb (by rw [unitsOfBits_pow h52]; exact h)
  rw [← unitsOfBits_pow h52]; exact unitsOfBits_le.2 hle

/-- No finite encoding is nearer to the exact value than `roundBits`, and its last bit is 0 where another is as near. -/
theorem roundBits_nearest {num den : Nat} (hd : 0 < den) (hov : num < overflowUnits * den) :
    roundBits num den < infBits ∧ ∀ c : Nat,
      ((unitsOfBits (roundBits num den) * den : Nat) - num : Int).natAbs
        ≤ ((unitsOfBits c * den : Nat) - num : Int).natAbs ∧
      (((unitsOfBits (roundBits num den) * den : Nat) - num : Int).natAbs
          = ((unitsOfBits c * den : Nat) - num : Int).natAbs →
        c = roundBits num den ∨ roundBits num den % 2 = 0) := by
  obtain ⟨k, n, hk, hn, en, hlow, hup, -, e⟩ := roundBits_spec (num := num) hd
  have hpos : 0 < den * 2 ^ k := Nat.mul_pos hd (Nat.two_pow_pos k)
  have hpow : (2 : Nat) ^ (2 + 2044) = 2 ^ 2 * 2 ^ 2044 := pow_add 2 2 2044
  have hpow' : ∀ j : Nat, (2 : Nat) ^ (j + 1) = 2 ^ j * 2 := fun j => pow_succ 2 j
  have hfin : k * 2 ^ 52 + n < infBits := by
    show _ < 2047 * 2 ^ 52
    rcases Nat.lt_or_ge k 2045 with h | h
    · omega
    · have hk45 : k = 2044 + 1 := by
        by_contra hne
        have h46 : 2046 ≤ k := by omega
        have h1 : 2 ^ 52 * (den * 2 ^ k) ≤ num := by omega
        have h2 : overflowUnits * den ≤ 2 ^ 52 * (den * 2 ^ k) := by
          have h3 : (2 : Nat) ^ (2 + 2044) ≤ 2 ^ k := Nat.pow_le_pow_right (by norm_num) h46
          rw [hpow] at h3
          have key : ∀ P Q : Nat, 2 ^ 2 * P ≤ Q → (2 ^ 54 - 1) * P * den ≤ 2 ^ 52 * (den * Q) := by
            intro P Q h
            calc (2 ^ 54 - 1) * P * den ≤ 2 ^ 52 * (2 ^ 2 * P) * den := Nat.mul_le_mul_right _ (by omega)
              _ ≤ 2 ^ 52 * Q * den := Nat.mul_le_mul_right _ (Nat.mul_le_mul_left _ h)
              _ = 2 ^ 52 * (den * Q) := by ring
          exact key _ _ h3
        exact absurd (h2.trans h1) (Nat.not_le.2 hov)
      have hn53 : n ≠ 2 ^ 53 := by
        intro hc
        have hs := (roundDiv_spec (num := num) hpos)
        rw [← en, hc] at hs
        obtain ⟨h1, -, -⟩ := hs
        subst hk45
        have h2 : overflowUnits * den * 2 + den * 2 ^ (2044 + 1) = 2 * (2 ^ 53 * (den * 2 ^ (2044 + 1))) := by
          rw [hpow' 2044]
          have key : ∀ P : Nat, (2 ^ 54 - 1) * P * den * 2 + den * (P * 2) = 2 * (2 ^ 53 * (den * (P * 2))) := by
            intro P
            rw [show (2 : Nat) ^ 54 - 1 = 18014398509481983 by norm_num]; ring
          exact key _
        omega
      omega
  have er : roundBits num den = k * 2 ^ 52 + n := by rw [e, if_pos hfin]
  refine ⟨by rw [er]; exact hfin, fun c => ?_⟩
  rw [er, unitsOfBits_eq hk hn]
  have hu : n * 2 ^ k * den = n * (den * 2 ^ k) := by ring
  rw [hu]
  rcases Nat.lt_or_ge (unitsOfBits c) (2 ^ 52 * 2 ^ k) with hc | hc
  · rcases hlow with h0 | hl
    · subst h0
      have hc' : c < 2 ^ 52 := by
        by_contra hge; push Not at hge
        have := unitsOfBits_le.2 hge
        rw [show (2 : Nat) ^ 52 = 0 * 2 ^ 52 + 2 ^ 52 by norm_num, unitsOfBits_eq (.inl rfl) (by norm_num)] at this
        omega
      have hcu : unitsOfBits c = c := by unfold unitsOfBits; rw [if_pos hc']
      have := roundDiv_nearest (num := num) hpos c
      rw [← en] at this
      simp only [Nat.pow_zero, Nat.mul_one] at this ⊢
      rw [hcu]
      refine ⟨this.1, fun h => ?_⟩
      rcases this.2 h with h | h
      · left; omega
      · right; omega
    · have hb := (roundDiv_nearest (num := num) hpos (2 ^ 52)).1
      rw [← en] at hb
      have hlt : unitsOfBits c * den < 2 ^ 52 * (den * 2 ^ k) := by
        calc unitsOfBits c * den < 2 ^ 52 * 2 ^ k * den := Nat.mul_lt_mul_of_pos_right hc hd
          _ = _ := by ring
      refine ⟨by omega, fun h => by omega⟩
  · obtain ⟨kc, nc, rfl, hkc, hnc⟩ := bits_split c
    rw [unitsOfBits_eq hkc hnc.le] at hc ⊢
    have hkk : k ≤ kc := by
      by_contra hlt
      push Not at hlt
      have : nc * 2 ^ kc < 2 ^ 52 * 2 ^ k := by
        calc nc * 2 ^ kc < 2 ^ 53 * 2 ^ kc := Nat.mul_lt_mul_of_pos_right hnc (Nat.two_pow_pos _)
          _ = 2 ^ 52 * 2 ^ (kc + 1) := by rw [Nat.pow_succ]; ring
          _ ≤ 2 ^ 52 * 2 ^ k := Nat.mul_le_mul_left _ (Nat.pow_le_pow_right (by norm_num) hlt)
      omega
    obtain ⟨j, rfl⟩ := Nat.exists_eq_add_of_le hkk
    have hm : nc * 2 ^ (k + j) * den = (nc * 2 ^ j) * (den * 2 ^ k) := by rw [Nat.pow_add]; ring
    rw [hm]
    have := roundDiv_nearest (num := num) hpos (nc * 2 ^ j)
    rw [← en] at this
    refine ⟨this.1, fun h => ?_⟩
    rcases this.2 h with h | h
    · left
      apply unitsOfBits_inj
      rw [unitsOfBits_eq hkc hnc.le, unitsOfBits_eq hk hn, ← h, Nat.pow_add]; ring
    · right; omega

/-! ### Signs and fields of a packed encoding -/

theorem packSign_toNat {neg : Bool} {bits : Nat} (h : bits ≤ infBits) :
    (packSign neg bits).toNat = bits + if neg then 2 ^ 63 else 0 := by
  have h' : bits ≤ 2047 * 2 ^ 52 := h
  unfold packSign
  rw [BitVec.toNat_ofNat]
  apply Nat.mod_eq_of_lt
  split <;> omega

theorem magBits_eq (x : F64) : magBits x = x.toNat % 2 ^ 63 := by
  simp [magBits, BitVec.extractLsb'_toNat]

@[simp] theorem magBits_packSign {neg : Bool} {bits : Nat} (h : bits ≤ infBits) : magBits (packSign neg bits) = bits := by
  have h' : bits ≤ 2047 * 2 ^ 52 := h
  rw [magBits_eq, packSign_toNat h]; split <;> omega

@[simp] theorem msb_packSign {neg : Bool} {bits : Nat} (h : bits ≤ infBits) : (packSign neg bits).msb = neg := by
  have h' : bits ≤ 2047 * 2 ^ 52 := h
  rw [BitVec.msb_eq_decide, packSign_toNat h]
  cases neg <;> simp
  omega

/-- A finite value is neither a NaN nor an infinity. -/
theorem isFinite_iff (x : F64) : isFinite x = true ↔ isNaN x = false ∧ isInf x = false := by
  simp only [isFinite, isNaN, isInf, decide_eq_true_eq, decide_eq_false_iff_not, beq_eq_false_iff_ne]
  omega

theorem isFinite_packSign {neg : Bool} {bits : Nat} (h : bits < infBits) : isFinite (packSign neg bits) = true := by
  unfold isFinite; rw [magBits_packSign h.le]; simpa using h

theorem magUnits_packSign {neg : Bool} {bits : Nat} (h : bits ≤ infBits) :
    magUnits (packSign neg bits) = unitsOfBits bits := by
  unfold magUnits; rw [magBits_packSign h]

theorem natAbs_toUnits (x : F64) : (toUnits x).natAbs = magUnits x := by
  unfold toUnits; split <;> simp

theorem toUnits_packSign {neg : Bool} {bits : Nat} (h : bits ≤ infBits) :
    toUnits (packSign neg bits) = if neg then -(unitsOfBits bits : Int) else unitsOfBits bits := by
  unfold toUnits; rw [msb_packSign h, magUnits_packSign h]

theorem toUnits_eq_zero (x : F64) : toUnits x = 0 ↔ magBits x = 0 := by
  rw [← Int.natAbs_eq_zero, natAbs_toUnits]; unfold magUnits
  constructor
  · intro h; exact unitsOfBits_inj (by rw [h, unitsOfBits_zero])
  · intro h; rw [h, unitsOfBits_zero]

/-! ### The operations on finite values -/

theorem fAdd_finite {a b : F64} (ha : isFinite a = true) (hb : isFinite b = true) :
    fAdd a b = packSign (if toUnits a + toUnits b = 0 then a.msb && b.msb else toUnits a + toUnits b < 0)
      (roundBits (toUnits a + toUnits b).natAbs 1) := by
  obtain ⟨na, ia⟩ := (isFinite_iff a).1 ha
  obtain ⟨nb, ib⟩ := (isFinite_iff b).1 hb
  simp [fAdd, na, nb, ia, ib]

theorem fNeg_msb (x : F64) : (fNeg x).msb = !x.msb := by
  have h : (0x8000000000000000#64).msb = true := by decide
  simp only [fNeg, BitVec.msb_xor, h, Bool.xor_true]

theorem fNeg_magBits (x : F64) : magBits (fNeg x) = magBits x := by
  unfold magBits fNeg
  congr 1
  ext i hi
  simp [BitVec.getElem_extractLsb']
  interval_cases i <;> simp

theorem fNeg_isFinite (x : F64) : isFinite (fNeg x) = isFinite x := by
  unfold isFinite; rw [fNeg_magBits]

theorem fNeg_isNaN (x : F64) : isNaN (fNeg x) = isNaN x := by
  unfold isNaN; rw [fNeg_magBits]

theorem toUnits_fNeg (x : F64) : toUnits (fNeg x) = -toUnits x := by
  unfold toUnits magUnits
  rw [fNeg_msb, fNeg_magBits]
  cases x.msb <;> simp

theorem fSub_finite {a b : F64} (ha : isFinite a = true) (hb : isFinite b = true) : fSub a b = fAdd a (fNeg b) := by
  obtain ⟨na, -⟩ := (isFinite_iff a).1 ha
  obtain ⟨nb, -⟩ := (isFinite_iff b).1 hb
  simp [fSub, na, nb]

theorem fMul_finite {a b : F64} (ha : isFinite a = true) (hb : isFinite b = true) :
    fMul a b = packSign (a.msb != b.msb) (roundBits (magUnits a * magUnits b) oneUnits) := by
  obtain ⟨na, ia⟩ := (isFinite_iff a).1 ha
  obtain ⟨nb, ib⟩ := (isFinite_iff b).1 hb
  simp only [fMul, na, nb, ia, ib, Bool.or_false, Bool.false_eq_true, if_false]

theorem fDiv_finite {a b : F64} (ha : isFinite a = true) (hb : isFinite b = true) (h0 : magBits b ≠ 0) :
    fDiv a b = packSign (a.msb != b.msb) (roundBits (magUnits a * oneUnits) (magUnits b)) := by
  obtain ⟨na, ia⟩ := (isFinite_iff a).1 ha
  obtain ⟨nb, ib⟩ := (isFinite_iff b).1 hb
  simp only [fDiv, na, nb, ia, ib, h0, Bool.or_false, Bool.false_eq_true, if_false]

/-! ### Bounds that the operations keep -/

/-- A packed rounding of at most `2 ^ t` units is finite and at most `2 ^ t` units. -/
theorem packed_le_pow {neg : Bool} {num den t : Nat} (hd : 0 < den) (h52 : 52 ≤ t) (ht : t ≤ 2097)
    (h : num ≤ 2 ^ t * den) :
    isFinite (packSign neg (roundBits num den)) = true ∧ magUnits (packSign neg (roundBits num den)) ≤ 2 ^ t := by
  obtain ⟨h1, h2⟩ := roundBits_le_pow hd h52 ht h
  exact ⟨isFinite_packSign h1, by rw [magUnits_packSign h1.le]; exact h2⟩

/-- A sum of magnitudes of at most `2 ^ t` units in all is finite and at most `2 ^ t` units. -/
theorem fAdd_le_pow {a b : F64} {t : Nat} (ha : isFinite a = true) (hb : isFinite b = true) (h52 : 52 ≤ t) (ht : t ≤ 2097)
    (h : magUnits a + magUnits b ≤ 2 ^ t) : isFinite (fAdd a b) = true ∧ magUnits (fAdd a b) ≤ 2 ^ t := by
  rw [fAdd_finite ha hb]
  refine packed_le_pow Nat.one_pos h52 ht ?_
  rw [Nat.mul_one]
  refine le_trans ?_ h
  rw [← natAbs_toUnits, ← natAbs_toUnits]
  exact Int.natAbs_add_le _ _

/-- The same for a difference. -/
theorem fSub_le_pow {a b : F64} {t : Nat} (ha : isFinite a = true) (hb : isFinite b = true) (h52 : 52 ≤ t) (ht : t ≤ 2097)
    (h : magUnits a + magUnits b ≤ 2 ^ t) : isFinite (fSub a b) = true ∧ magUnits (fSub a b) ≤ 2 ^ t := by
  rw [fSub_finite ha hb]
  refine fAdd_le_pow ha (by rw [fNeg_isFinite]; exact hb) h52 ht ?_
  have : magUnits (fNeg b) = magUnits b := by unfold magUnits; rw [fNeg_magBits]
  rw [this]; exact h

/-- A product of at most `2 ^ t` units is finite and at most `2 ^ t` units. -/
theorem fMul_le_pow {a b : F64} {t : Nat} (ha : isFinite a = true) (hb : isFinite b = true) (h52 : 52 ≤ t) (ht : t ≤ 2097)
    (h : magUnits a * magUnits b ≤ 2 ^ t * oneUnits) : isFinite (fMul a b) = true ∧ magUnits (fMul a b) ≤ 2 ^ t := by
  rw [fMul_finite ha hb]
  exact packed_le_pow (Nat.two_pow_pos _) h52 ht h

/-- A quotient of at most `2 ^ t` units by a value that is not zero is finite and at most `2 ^ t` units. -/
theorem fDiv_le_pow {a b : F64} {t : Nat} (ha : isFinite a = true) (hb : isFinite b = true) (h0 : magUnits b ≠ 0)
    (h52 : 52 ≤ t) (ht : t ≤ 2097) (h : magUnits a * oneUnits ≤ 2 ^ t * magUnits b) :
    isFinite (fDiv a b) = true ∧ magUnits (fDiv a b) ≤ 2 ^ t := by
  have hb0 : magBits b ≠ 0 := by
    intro h'; apply h0; unfold magUnits; rw [h', unitsOfBits_zero]
  rw [fDiv_finite ha hb hb0]
  exact packed_le_pow (Nat.pos_of_ne_zero h0) h52 ht h

/-! ### The integer square root -/

/-- `isqrtFrom` keeps the square of its result at most `n`, and the next integer's square above it, where `r` starts so. -/
theorem isqrtFrom_spec (k : Nat) : ∀ {n r : Nat}, r * r ≤ n → n < (r + 2 ^ k) * (r + 2 ^ k) →
    isqrtFrom k n r * isqrtFrom k n r ≤ n ∧ n < (isqrtFrom k n r + 1) * (isqrtFrom k n r + 1) := by
  induction k with
  | zero => intro n r h1 h2; exact ⟨h1, h2⟩
  | succ k ih =>
    intro n r h1 h2
    have e : r + 2 ^ (k + 1) = r + 2 ^ k + 2 ^ k := by rw [Nat.pow_succ]; ring
    unfold isqrtFrom
    split
    · rename_i h; exact ih h (by rw [← e]; exact h2)
    · rename_i h; exact ih h1 (Nat.lt_of_not_le h)

/-- `isqrt n` is the integer part of the square root of `n`. -/
theorem isqrt_spec (n : Nat) : isqrt n * isqrt n ≤ n ∧ n < (isqrt n + 1) * (isqrt n + 1) := by
  unfold isqrt
  apply isqrtFrom_spec
  · simp
  · rw [Nat.zero_add, ← Nat.pow_add]
    exact lt_of_lt_of_le Nat.lt_log2_self (Nat.pow_le_pow_right (by norm_num) (by omega))

end Sys2Proof.Machine
end

