-- ==== Sys2Proof/Laws/State.lean ====
section
/-! SUPPORT. One lemma per field per update of the state, and per field of STATUS for its updates, so that no proof unfolds a
record update. -/

namespace Sys2Proof.Machine

/-! ### `complete` -/

@[simp] theorem complete_status (code : ErrCode) (s : State) : (complete code s).status = s.status.completed code := rfl
@[simp] theorem complete_arg0 (code : ErrCode) (s : State) : (complete code s).arg0 = s.arg0 := rfl
@[simp] theorem complete_arg1 (code : ErrCode) (s : State) : (complete code s).arg1 = s.arg1 := rfl
@[simp] theorem complete_res0 (code : ErrCode) (s : State) : (complete code s).res0 = s.res0 := rfl
@[simp] theorem complete_mag (code : ErrCode) (s : State) : (complete code s).mag = s.mag := rfl
@[simp] theorem complete_baro (code : ErrCode) (s : State) : (complete code s).baro = s.baro := rfl
@[simp] theorem complete_cal (code : ErrCode) (s : State) : (complete code s).cal = s.cal := rfl
@[simp] theorem complete_latch (code : ErrCode) (s : State) : (complete code s).latch = s.latch := rfl
@[simp] theorem complete_busIn (code : ErrCode) (s : State) : (complete code s).busIn = s.busIn := rfl
@[simp] theorem complete_history (code : ErrCode) (s : State) : (complete code s).history = s.history := rfl
@[simp] theorem complete_agenda (code : ErrCode) (s : State) : (complete code s).agenda = s.agenda := rfl
@[simp] theorem complete_hostReads (code : ErrCode) (s : State) : (complete code s).hostReads = s.hostReads := rfl
@[simp] theorem complete_premise (code : ErrCode) (s : State) : (complete code s).premise = s.premise := rfl

/-! ### `dropToUninit` -/

@[simp] theorem dropToUninit_status (s : State) : (dropToUninit s).status = s.status.uninitialized := rfl
@[simp] theorem dropToUninit_arg0 (s : State) : (dropToUninit s).arg0 = s.arg0 := rfl
@[simp] theorem dropToUninit_arg1 (s : State) : (dropToUninit s).arg1 = s.arg1 := rfl
@[simp] theorem dropToUninit_res0 (s : State) : (dropToUninit s).res0 = s.res0 := rfl
@[simp] theorem dropToUninit_mag (s : State) : (dropToUninit s).mag = s.mag := rfl
@[simp] theorem dropToUninit_baro (s : State) : (dropToUninit s).baro = s.baro := rfl
@[simp] theorem dropToUninit_cal (s : State) : (dropToUninit s).cal = s.cal := rfl
@[simp] theorem dropToUninit_latch (s : State) : (dropToUninit s).latch = s.latch := rfl
@[simp] theorem dropToUninit_busIn (s : State) : (dropToUninit s).busIn = s.busIn := rfl
@[simp] theorem dropToUninit_history (s : State) : (dropToUninit s).history = s.history := rfl
@[simp] theorem dropToUninit_agenda (s : State) : (dropToUninit s).agenda = s.agenda := rfl
@[simp] theorem dropToUninit_hostReads (s : State) : (dropToUninit s).hostReads = s.hostReads := rfl
@[simp] theorem dropToUninit_premise (s : State) : (dropToUninit s).premise = s.premise := rfl

/-! ### `writeRes0` -/

@[simp] theorem writeRes0_status (v : Word) (s : State) : (writeRes0 v s).status = s.status := rfl
@[simp] theorem writeRes0_arg0 (v : Word) (s : State) : (writeRes0 v s).arg0 = s.arg0 := rfl
@[simp] theorem writeRes0_arg1 (v : Word) (s : State) : (writeRes0 v s).arg1 = s.arg1 := rfl
@[simp] theorem writeRes0_res0 (v : Word) (s : State) : (writeRes0 v s).res0 = v := rfl
@[simp] theorem writeRes0_mag (v : Word) (s : State) : (writeRes0 v s).mag = s.mag := rfl
@[simp] theorem writeRes0_baro (v : Word) (s : State) : (writeRes0 v s).baro = s.baro := rfl
@[simp] theorem writeRes0_cal (v : Word) (s : State) : (writeRes0 v s).cal = s.cal := rfl
@[simp] theorem writeRes0_latch (v : Word) (s : State) : (writeRes0 v s).latch = s.latch := rfl
@[simp] theorem writeRes0_busIn (v : Word) (s : State) : (writeRes0 v s).busIn = s.busIn := rfl
@[simp] theorem writeRes0_history (v : Word) (s : State) : (writeRes0 v s).history = s.history := rfl
@[simp] theorem writeRes0_agenda (v : Word) (s : State) : (writeRes0 v s).agenda = s.agenda := rfl
@[simp] theorem writeRes0_hostReads (v : Word) (s : State) : (writeRes0 v s).hostReads = s.hostReads := rfl
@[simp] theorem writeRes0_premise (v : Word) (s : State) : (writeRes0 v s).premise = s.premise := rfl

/-! ### `setMagState` -/

@[simp] theorem setMagState_status (m : MagState) (s : State) : (setMagState m s).status = { s.status with magState := m } := rfl
@[simp] theorem setMagState_arg0 (m : MagState) (s : State) : (setMagState m s).arg0 = s.arg0 := rfl
@[simp] theorem setMagState_arg1 (m : MagState) (s : State) : (setMagState m s).arg1 = s.arg1 := rfl
@[simp] theorem setMagState_res0 (m : MagState) (s : State) : (setMagState m s).res0 = s.res0 := rfl
@[simp] theorem setMagState_mag (m : MagState) (s : State) : (setMagState m s).mag = s.mag := rfl
@[simp] theorem setMagState_baro (m : MagState) (s : State) : (setMagState m s).baro = s.baro := rfl
@[simp] theorem setMagState_cal (m : MagState) (s : State) : (setMagState m s).cal = s.cal := rfl
@[simp] theorem setMagState_latch (m : MagState) (s : State) : (setMagState m s).latch = s.latch := rfl
@[simp] theorem setMagState_busIn (m : MagState) (s : State) : (setMagState m s).busIn = s.busIn := rfl
@[simp] theorem setMagState_history (m : MagState) (s : State) : (setMagState m s).history = s.history := rfl
@[simp] theorem setMagState_agenda (m : MagState) (s : State) : (setMagState m s).agenda = s.agenda := rfl
@[simp] theorem setMagState_hostReads (m : MagState) (s : State) : (setMagState m s).hostReads = s.hostReads := rfl
@[simp] theorem setMagState_premise (m : MagState) (s : State) : (setMagState m s).premise = s.premise := rfl

/-! ### `setMagRv` -/

@[simp] theorem setMagRv_status (v : Bool) (s : State) : (setMagRv v s).status = { s.status with magRv := v } := rfl
@[simp] theorem setMagRv_arg0 (v : Bool) (s : State) : (setMagRv v s).arg0 = s.arg0 := rfl
@[simp] theorem setMagRv_arg1 (v : Bool) (s : State) : (setMagRv v s).arg1 = s.arg1 := rfl
@[simp] theorem setMagRv_res0 (v : Bool) (s : State) : (setMagRv v s).res0 = s.res0 := rfl
@[simp] theorem setMagRv_mag (v : Bool) (s : State) : (setMagRv v s).mag = s.mag := rfl
@[simp] theorem setMagRv_baro (v : Bool) (s : State) : (setMagRv v s).baro = s.baro := rfl
@[simp] theorem setMagRv_cal (v : Bool) (s : State) : (setMagRv v s).cal = s.cal := rfl
@[simp] theorem setMagRv_latch (v : Bool) (s : State) : (setMagRv v s).latch = s.latch := rfl
@[simp] theorem setMagRv_busIn (v : Bool) (s : State) : (setMagRv v s).busIn = s.busIn := rfl
@[simp] theorem setMagRv_history (v : Bool) (s : State) : (setMagRv v s).history = s.history := rfl
@[simp] theorem setMagRv_agenda (v : Bool) (s : State) : (setMagRv v s).agenda = s.agenda := rfl
@[simp] theorem setMagRv_hostReads (v : Bool) (s : State) : (setMagRv v s).hostReads = s.hostReads := rfl
@[simp] theorem setMagRv_premise (v : Bool) (s : State) : (setMagRv v s).premise = s.premise := rfl

/-! ### `setBaroState` -/

@[simp] theorem setBaroState_status (b : BaroState) (s : State) : (setBaroState b s).status = { s.status with baroState := b } := rfl
@[simp] theorem setBaroState_arg0 (b : BaroState) (s : State) : (setBaroState b s).arg0 = s.arg0 := rfl
@[simp] theorem setBaroState_arg1 (b : BaroState) (s : State) : (setBaroState b s).arg1 = s.arg1 := rfl
@[simp] theorem setBaroState_res0 (b : BaroState) (s : State) : (setBaroState b s).res0 = s.res0 := rfl
@[simp] theorem setBaroState_mag (b : BaroState) (s : State) : (setBaroState b s).mag = s.mag := rfl
@[simp] theorem setBaroState_baro (b : BaroState) (s : State) : (setBaroState b s).baro = s.baro := rfl
@[simp] theorem setBaroState_cal (b : BaroState) (s : State) : (setBaroState b s).cal = s.cal := rfl
@[simp] theorem setBaroState_latch (b : BaroState) (s : State) : (setBaroState b s).latch = s.latch := rfl
@[simp] theorem setBaroState_busIn (b : BaroState) (s : State) : (setBaroState b s).busIn = s.busIn := rfl
@[simp] theorem setBaroState_history (b : BaroState) (s : State) : (setBaroState b s).history = s.history := rfl
@[simp] theorem setBaroState_agenda (b : BaroState) (s : State) : (setBaroState b s).agenda = s.agenda := rfl
@[simp] theorem setBaroState_hostReads (b : BaroState) (s : State) : (setBaroState b s).hostReads = s.hostReads := rfl
@[simp] theorem setBaroState_premise (b : BaroState) (s : State) : (setBaroState b s).premise = s.premise := rfl

/-! ### `setBaroRv` -/

@[simp] theorem setBaroRv_status (v : Bool) (s : State) : (setBaroRv v s).status = { s.status with baroRv := v } := rfl
@[simp] theorem setBaroRv_arg0 (v : Bool) (s : State) : (setBaroRv v s).arg0 = s.arg0 := rfl
@[simp] theorem setBaroRv_arg1 (v : Bool) (s : State) : (setBaroRv v s).arg1 = s.arg1 := rfl
@[simp] theorem setBaroRv_res0 (v : Bool) (s : State) : (setBaroRv v s).res0 = s.res0 := rfl
@[simp] theorem setBaroRv_mag (v : Bool) (s : State) : (setBaroRv v s).mag = s.mag := rfl
@[simp] theorem setBaroRv_baro (v : Bool) (s : State) : (setBaroRv v s).baro = s.baro := rfl
@[simp] theorem setBaroRv_cal (v : Bool) (s : State) : (setBaroRv v s).cal = s.cal := rfl
@[simp] theorem setBaroRv_latch (v : Bool) (s : State) : (setBaroRv v s).latch = s.latch := rfl
@[simp] theorem setBaroRv_busIn (v : Bool) (s : State) : (setBaroRv v s).busIn = s.busIn := rfl
@[simp] theorem setBaroRv_history (v : Bool) (s : State) : (setBaroRv v s).history = s.history := rfl
@[simp] theorem setBaroRv_agenda (v : Bool) (s : State) : (setBaroRv v s).agenda = s.agenda := rfl
@[simp] theorem setBaroRv_hostReads (v : Bool) (s : State) : (setBaroRv v s).hostReads = s.hostReads := rfl
@[simp] theorem setBaroRv_premise (v : Bool) (s : State) : (setBaroRv v s).premise = s.premise := rfl

/-! ### `writeMagResults` -/

@[simp] theorem writeMagResults_status (d : MagReading) (s : State) : (writeMagResults d s).status = s.status := rfl
@[simp] theorem writeMagResults_arg0 (d : MagReading) (s : State) : (writeMagResults d s).arg0 = s.arg0 := rfl
@[simp] theorem writeMagResults_arg1 (d : MagReading) (s : State) : (writeMagResults d s).arg1 = s.arg1 := rfl
@[simp] theorem writeMagResults_res0 (d : MagReading) (s : State) : (writeMagResults d s).res0 = s.res0 := rfl
@[simp] theorem writeMagResults_mag (d : MagReading) (s : State) : (writeMagResults d s).mag = d.regs := rfl
@[simp] theorem writeMagResults_baro (d : MagReading) (s : State) : (writeMagResults d s).baro = s.baro := rfl
@[simp] theorem writeMagResults_cal (d : MagReading) (s : State) : (writeMagResults d s).cal = s.cal := rfl
@[simp] theorem writeMagResults_latch (d : MagReading) (s : State) : (writeMagResults d s).latch = s.latch := rfl
@[simp] theorem writeMagResults_busIn (d : MagReading) (s : State) : (writeMagResults d s).busIn = s.busIn := rfl
@[simp] theorem writeMagResults_history (d : MagReading) (s : State) : (writeMagResults d s).history = s.history := rfl
@[simp] theorem writeMagResults_agenda (d : MagReading) (s : State) : (writeMagResults d s).agenda = s.agenda := rfl
@[simp] theorem writeMagResults_hostReads (d : MagReading) (s : State) : (writeMagResults d s).hostReads = s.hostReads := rfl
@[simp] theorem writeMagResults_premise (d : MagReading) (s : State) : (writeMagResults d s).premise = s.premise := rfl

/-! ### `magReadFrame` -/

@[simp] theorem magReadFrame_status (b : Vector Byte magFrameLen) (s : State) : (magReadFrame b s).status = { s.status with magState := .idle, magRv := true } := rfl
@[simp] theorem magReadFrame_arg0 (b : Vector Byte magFrameLen) (s : State) : (magReadFrame b s).arg0 = s.arg0 := rfl
@[simp] theorem magReadFrame_arg1 (b : Vector Byte magFrameLen) (s : State) : (magReadFrame b s).arg1 = s.arg1 := rfl
@[simp] theorem magReadFrame_res0 (b : Vector Byte magFrameLen) (s : State) : (magReadFrame b s).res0 = s.res0 := rfl
@[simp] theorem magReadFrame_mag (b : Vector Byte magFrameLen) (s : State) : (magReadFrame b s).mag = (magDecode b).regs := rfl
@[simp] theorem magReadFrame_baro (b : Vector Byte magFrameLen) (s : State) : (magReadFrame b s).baro = s.baro := rfl
@[simp] theorem magReadFrame_cal (b : Vector Byte magFrameLen) (s : State) : (magReadFrame b s).cal = s.cal := rfl
@[simp] theorem magReadFrame_latch (b : Vector Byte magFrameLen) (s : State) : (magReadFrame b s).latch = s.latch := rfl
@[simp] theorem magReadFrame_busIn (b : Vector Byte magFrameLen) (s : State) : (magReadFrame b s).busIn = s.busIn := rfl
@[simp] theorem magReadFrame_history (b : Vector Byte magFrameLen) (s : State) : (magReadFrame b s).history = s.history := rfl
@[simp] theorem magReadFrame_agenda (b : Vector Byte magFrameLen) (s : State) : (magReadFrame b s).agenda = s.agenda := rfl
@[simp] theorem magReadFrame_hostReads (b : Vector Byte magFrameLen) (s : State) : (magReadFrame b s).hostReads = s.hostReads := rfl
@[simp] theorem magReadFrame_premise (b : Vector Byte magFrameLen) (s : State) : (magReadFrame b s).premise = s.premise := rfl

/-! ### `writeCal` -/

@[simp] theorem writeCal_status (c : Calib) (s : State) : (writeCal c s).status = s.status := rfl
@[simp] theorem writeCal_arg0 (c : Calib) (s : State) : (writeCal c s).arg0 = s.arg0 := rfl
@[simp] theorem writeCal_arg1 (c : Calib) (s : State) : (writeCal c s).arg1 = s.arg1 := rfl
@[simp] theorem writeCal_res0 (c : Calib) (s : State) : (writeCal c s).res0 = s.res0 := rfl
@[simp] theorem writeCal_mag (c : Calib) (s : State) : (writeCal c s).mag = s.mag := rfl
@[simp] theorem writeCal_baro (c : Calib) (s : State) : (writeCal c s).baro = s.baro := rfl
@[simp] theorem writeCal_cal (c : Calib) (s : State) : (writeCal c s).cal = c.regs := rfl
@[simp] theorem writeCal_latch (c : Calib) (s : State) : (writeCal c s).latch = s.latch := rfl
@[simp] theorem writeCal_busIn (c : Calib) (s : State) : (writeCal c s).busIn = s.busIn := rfl
@[simp] theorem writeCal_history (c : Calib) (s : State) : (writeCal c s).history = s.history := rfl
@[simp] theorem writeCal_agenda (c : Calib) (s : State) : (writeCal c s).agenda = s.agenda := rfl
@[simp] theorem writeCal_hostReads (c : Calib) (s : State) : (writeCal c s).hostReads = s.hostReads := rfl
@[simp] theorem writeCal_premise (c : Calib) (s : State) : (writeCal c s).premise = s.premise := rfl

/-! ### `writeBaroResults` -/

@[simp] theorem writeBaroResults_status (t p : BitVec 20) (res : CompResult) (s : State) : (writeBaroResults t p res s).status = { s.status with degen := res.degenerate, altInv := res.altInvalid, baroRv := true } := rfl
@[simp] theorem writeBaroResults_arg0 (t p : BitVec 20) (res : CompResult) (s : State) : (writeBaroResults t p res s).arg0 = s.arg0 := rfl
@[simp] theorem writeBaroResults_arg1 (t p : BitVec 20) (res : CompResult) (s : State) : (writeBaroResults t p res s).arg1 = s.arg1 := rfl
@[simp] theorem writeBaroResults_res0 (t p : BitVec 20) (res : CompResult) (s : State) : (writeBaroResults t p res s).res0 = s.res0 := rfl
@[simp] theorem writeBaroResults_mag (t p : BitVec 20) (res : CompResult) (s : State) : (writeBaroResults t p res s).mag = s.mag := rfl
@[simp] theorem writeBaroResults_baro (t p : BitVec 20) (res : CompResult) (s : State) : (writeBaroResults t p res s).baro = res.regs t p := rfl
@[simp] theorem writeBaroResults_cal (t p : BitVec 20) (res : CompResult) (s : State) : (writeBaroResults t p res s).cal = s.cal := rfl
@[simp] theorem writeBaroResults_latch (t p : BitVec 20) (res : CompResult) (s : State) : (writeBaroResults t p res s).latch = s.latch := rfl
@[simp] theorem writeBaroResults_busIn (t p : BitVec 20) (res : CompResult) (s : State) : (writeBaroResults t p res s).busIn = s.busIn := rfl
@[simp] theorem writeBaroResults_history (t p : BitVec 20) (res : CompResult) (s : State) : (writeBaroResults t p res s).history = s.history := rfl
@[simp] theorem writeBaroResults_agenda (t p : BitVec 20) (res : CompResult) (s : State) : (writeBaroResults t p res s).agenda = s.agenda := rfl
@[simp] theorem writeBaroResults_hostReads (t p : BitVec 20) (res : CompResult) (s : State) : (writeBaroResults t p res s).hostReads = s.hostReads := rfl
@[simp] theorem writeBaroResults_premise (t p : BitVec 20) (res : CompResult) (s : State) : (writeBaroResults t p res s).premise = s.premise := rfl

/-! ### `compensateAndWrite` -/

@[simp] theorem compensateAndWrite_status (t p : BitVec 20) (s : State) : (compensateAndWrite t p s).status = { s.status with
      degen := (compensate t p s.cal.calib).degenerate
      altInv := (compensate t p s.cal.calib).altInvalid
      baroRv := true } := rfl
@[simp] theorem compensateAndWrite_arg0 (t p : BitVec 20) (s : State) : (compensateAndWrite t p s).arg0 = s.arg0 := rfl
@[simp] theorem compensateAndWrite_arg1 (t p : BitVec 20) (s : State) : (compensateAndWrite t p s).arg1 = s.arg1 := rfl
@[simp] theorem compensateAndWrite_res0 (t p : BitVec 20) (s : State) : (compensateAndWrite t p s).res0 = s.res0 := rfl
@[simp] theorem compensateAndWrite_mag (t p : BitVec 20) (s : State) : (compensateAndWrite t p s).mag = s.mag := rfl
@[simp] theorem compensateAndWrite_baro (t p : BitVec 20) (s : State) : (compensateAndWrite t p s).baro = (compensate t p s.cal.calib).regs t p := rfl
@[simp] theorem compensateAndWrite_cal (t p : BitVec 20) (s : State) : (compensateAndWrite t p s).cal = s.cal := rfl
@[simp] theorem compensateAndWrite_latch (t p : BitVec 20) (s : State) : (compensateAndWrite t p s).latch = s.latch := rfl
@[simp] theorem compensateAndWrite_busIn (t p : BitVec 20) (s : State) : (compensateAndWrite t p s).busIn = s.busIn := rfl
@[simp] theorem compensateAndWrite_history (t p : BitVec 20) (s : State) : (compensateAndWrite t p s).history = s.history := rfl
@[simp] theorem compensateAndWrite_agenda (t p : BitVec 20) (s : State) : (compensateAndWrite t p s).agenda = s.agenda := rfl
@[simp] theorem compensateAndWrite_hostReads (t p : BitVec 20) (s : State) : (compensateAndWrite t p s).hostReads = s.hostReads := rfl
@[simp] theorem compensateAndWrite_premise (t p : BitVec 20) (s : State) : (compensateAndWrite t p s).premise = s.premise := rfl

/-! ### `acceptCommand` -/

@[simp] theorem acceptCommand_status (w : Word) (s : State) : (acceptCommand w s).status = { s.status with busy := true } := rfl
@[simp] theorem acceptCommand_arg0 (w : Word) (s : State) : (acceptCommand w s).arg0 = s.arg0 := rfl
@[simp] theorem acceptCommand_arg1 (w : Word) (s : State) : (acceptCommand w s).arg1 = s.arg1 := rfl
@[simp] theorem acceptCommand_res0 (w : Word) (s : State) : (acceptCommand w s).res0 = s.res0 := rfl
@[simp] theorem acceptCommand_mag (w : Word) (s : State) : (acceptCommand w s).mag = s.mag := rfl
@[simp] theorem acceptCommand_baro (w : Word) (s : State) : (acceptCommand w s).baro = s.baro := rfl
@[simp] theorem acceptCommand_cal (w : Word) (s : State) : (acceptCommand w s).cal = s.cal := rfl
@[simp] theorem acceptCommand_latch (w : Word) (s : State) : (acceptCommand w s).latch = ⟨w, s.arg0, s.arg1⟩ := rfl
@[simp] theorem acceptCommand_busIn (w : Word) (s : State) : (acceptCommand w s).busIn = s.busIn := rfl
@[simp] theorem acceptCommand_history (w : Word) (s : State) : (acceptCommand w s).history = s.history := rfl
@[simp] theorem acceptCommand_agenda (w : Word) (s : State) : (acceptCommand w s).agenda = s.agenda := rfl
@[simp] theorem acceptCommand_hostReads (w : Word) (s : State) : (acceptCommand w s).hostReads = s.hostReads := rfl
@[simp] theorem acceptCommand_premise (w : Word) (s : State) : (acceptCommand w s).premise = s.premise := rfl

/-! ### `dropCommand` -/

@[simp] theorem dropCommand_status (s : State) : (dropCommand s).status = { s.status with cmdOvr := true } := rfl
@[simp] theorem dropCommand_arg0 (s : State) : (dropCommand s).arg0 = s.arg0 := rfl
@[simp] theorem dropCommand_arg1 (s : State) : (dropCommand s).arg1 = s.arg1 := rfl
@[simp] theorem dropCommand_res0 (s : State) : (dropCommand s).res0 = s.res0 := rfl
@[simp] theorem dropCommand_mag (s : State) : (dropCommand s).mag = s.mag := rfl
@[simp] theorem dropCommand_baro (s : State) : (dropCommand s).baro = s.baro := rfl
@[simp] theorem dropCommand_cal (s : State) : (dropCommand s).cal = s.cal := rfl
@[simp] theorem dropCommand_latch (s : State) : (dropCommand s).latch = s.latch := rfl
@[simp] theorem dropCommand_busIn (s : State) : (dropCommand s).busIn = s.busIn := rfl
@[simp] theorem dropCommand_history (s : State) : (dropCommand s).history = s.history := rfl
@[simp] theorem dropCommand_agenda (s : State) : (dropCommand s).agenda = s.agenda := rfl
@[simp] theorem dropCommand_hostReads (s : State) : (dropCommand s).hostReads = s.hostReads := rfl
@[simp] theorem dropCommand_premise (s : State) : (dropCommand s).premise = s.premise := rfl

/-! ### `resetBlock` -/

@[simp] theorem resetBlock_status (s : State) : (resetBlock s).status = Status.reset := rfl
@[simp] theorem resetBlock_arg0 (s : State) : (resetBlock s).arg0 = 0 := rfl
@[simp] theorem resetBlock_arg1 (s : State) : (resetBlock s).arg1 = 0 := rfl
@[simp] theorem resetBlock_res0 (s : State) : (resetBlock s).res0 = 0 := rfl
@[simp] theorem resetBlock_mag (s : State) : (resetBlock s).mag = MagRegs.reset := rfl
@[simp] theorem resetBlock_baro (s : State) : (resetBlock s).baro = BaroRegs.reset := rfl
@[simp] theorem resetBlock_cal (s : State) : (resetBlock s).cal = CalRegs.reset := rfl
@[simp] theorem resetBlock_latch (s : State) : (resetBlock s).latch = Latches.reset := rfl
@[simp] theorem resetBlock_busIn (s : State) : (resetBlock s).busIn = s.busIn := rfl
@[simp] theorem resetBlock_history (s : State) : (resetBlock s).history = s.history := rfl
@[simp] theorem resetBlock_agenda (s : State) : (resetBlock s).agenda = s.agenda := rfl
@[simp] theorem resetBlock_hostReads (s : State) : (resetBlock s).hostReads = s.hostReads := rfl
@[simp] theorem resetBlock_premise (s : State) : (resetBlock s).premise = s.premise := rfl

/-! ### `afterTransaction` -/

@[simp] theorem afterTransaction_status (rest : List BusAnswer) (e : BusEntry) (s : State) : (afterTransaction rest e s).status = s.status := rfl
@[simp] theorem afterTransaction_arg0 (rest : List BusAnswer) (e : BusEntry) (s : State) : (afterTransaction rest e s).arg0 = s.arg0 := rfl
@[simp] theorem afterTransaction_arg1 (rest : List BusAnswer) (e : BusEntry) (s : State) : (afterTransaction rest e s).arg1 = s.arg1 := rfl
@[simp] theorem afterTransaction_res0 (rest : List BusAnswer) (e : BusEntry) (s : State) : (afterTransaction rest e s).res0 = s.res0 := rfl
@[simp] theorem afterTransaction_mag (rest : List BusAnswer) (e : BusEntry) (s : State) : (afterTransaction rest e s).mag = s.mag := rfl
@[simp] theorem afterTransaction_baro (rest : List BusAnswer) (e : BusEntry) (s : State) : (afterTransaction rest e s).baro = s.baro := rfl
@[simp] theorem afterTransaction_cal (rest : List BusAnswer) (e : BusEntry) (s : State) : (afterTransaction rest e s).cal = s.cal := rfl
@[simp] theorem afterTransaction_latch (rest : List BusAnswer) (e : BusEntry) (s : State) : (afterTransaction rest e s).latch = s.latch := rfl
@[simp] theorem afterTransaction_busIn (rest : List BusAnswer) (e : BusEntry) (s : State) : (afterTransaction rest e s).busIn = rest := rfl
@[simp] theorem afterTransaction_history (rest : List BusAnswer) (e : BusEntry) (s : State) : (afterTransaction rest e s).history = s.history ++ [e] := rfl
@[simp] theorem afterTransaction_agenda (rest : List BusAnswer) (e : BusEntry) (s : State) : (afterTransaction rest e s).agenda = s.agenda := rfl
@[simp] theorem afterTransaction_hostReads (rest : List BusAnswer) (e : BusEntry) (s : State) : (afterTransaction rest e s).hostReads = s.hostReads := rfl
@[simp] theorem afterTransaction_premise (rest : List BusAnswer) (e : BusEntry) (s : State) : (afterTransaction rest e s).premise = s.premise := rfl

/-! ### `turnTaken` -/

@[simp] theorem turnTaken_status (s : State) : (turnTaken s).status = s.status := rfl
@[simp] theorem turnTaken_arg0 (s : State) : (turnTaken s).arg0 = s.arg0 := rfl
@[simp] theorem turnTaken_arg1 (s : State) : (turnTaken s).arg1 = s.arg1 := rfl
@[simp] theorem turnTaken_res0 (s : State) : (turnTaken s).res0 = s.res0 := rfl
@[simp] theorem turnTaken_mag (s : State) : (turnTaken s).mag = s.mag := rfl
@[simp] theorem turnTaken_baro (s : State) : (turnTaken s).baro = s.baro := rfl
@[simp] theorem turnTaken_cal (s : State) : (turnTaken s).cal = s.cal := rfl
@[simp] theorem turnTaken_latch (s : State) : (turnTaken s).latch = s.latch := rfl
@[simp] theorem turnTaken_busIn (s : State) : (turnTaken s).busIn = s.busIn := rfl
@[simp] theorem turnTaken_history (s : State) : (turnTaken s).history = s.history := rfl
@[simp] theorem turnTaken_agenda (s : State) : (turnTaken s).agenda = s.agenda.tail := rfl
@[simp] theorem turnTaken_hostReads (s : State) : (turnTaken s).hostReads = s.hostReads := rfl
@[simp] theorem turnTaken_premise (s : State) : (turnTaken s).premise = s.premise := rfl

/-! ### `Status.completed` -/

@[simp] theorem Status_completed_busy (code : ErrCode) (st : Status) : (st.completed code).busy = false := rfl
@[simp] theorem Status_completed_done (code : ErrCode) (st : Status) : (st.completed code).done = true := rfl
@[simp] theorem Status_completed_cmdOvr (code : ErrCode) (st : Status) : (st.completed code).cmdOvr = st.cmdOvr := rfl
@[simp] theorem Status_completed_err (code : ErrCode) (st : Status) : (st.completed code).err = code := rfl
@[simp] theorem Status_completed_magState (code : ErrCode) (st : Status) : (st.completed code).magState = st.magState := rfl
@[simp] theorem Status_completed_baroState (code : ErrCode) (st : Status) : (st.completed code).baroState = st.baroState := rfl
@[simp] theorem Status_completed_magRv (code : ErrCode) (st : Status) : (st.completed code).magRv = st.magRv := rfl
@[simp] theorem Status_completed_baroRv (code : ErrCode) (st : Status) : (st.completed code).baroRv = st.baroRv := rfl
@[simp] theorem Status_completed_degen (code : ErrCode) (st : Status) : (st.completed code).degen = st.degen := rfl
@[simp] theorem Status_completed_altInv (code : ErrCode) (st : Status) : (st.completed code).altInv = st.altInv := rfl

/-! ### `Status.uninitialized` -/

@[simp] theorem Status_uninitialized_busy (st : Status) : (st.uninitialized).busy = st.busy := rfl
@[simp] theorem Status_uninitialized_done (st : Status) : (st.uninitialized).done = st.done := rfl
@[simp] theorem Status_uninitialized_cmdOvr (st : Status) : (st.uninitialized).cmdOvr = st.cmdOvr := rfl
@[simp] theorem Status_uninitialized_err (st : Status) : (st.uninitialized).err = st.err := rfl
@[simp] theorem Status_uninitialized_magState (st : Status) : (st.uninitialized).magState = st.magState := rfl
@[simp] theorem Status_uninitialized_baroState (st : Status) : (st.uninitialized).baroState = .uninit := rfl
@[simp] theorem Status_uninitialized_magRv (st : Status) : (st.uninitialized).magRv = st.magRv := rfl
@[simp] theorem Status_uninitialized_baroRv (st : Status) : (st.uninitialized).baroRv = false := rfl
@[simp] theorem Status_uninitialized_degen (st : Status) : (st.uninitialized).degen = st.degen := rfl
@[simp] theorem Status_uninitialized_altInv (st : Status) : (st.uninitialized).altInv = st.altInv := rfl

/-! ### `Status.writeOneToClear` -/

@[simp] theorem Status_writeOneToClear_busy (v : Word) (st : Status) : (st.writeOneToClear v).busy = st.busy := rfl
@[simp] theorem Status_writeOneToClear_done (v : Word) (st : Status) : (st.writeOneToClear v).done = (st.done && !v.getLsbD 1) := rfl
@[simp] theorem Status_writeOneToClear_cmdOvr (v : Word) (st : Status) : (st.writeOneToClear v).cmdOvr = (st.cmdOvr && !v.getLsbD 2) := rfl
@[simp] theorem Status_writeOneToClear_err (v : Word) (st : Status) : (st.writeOneToClear v).err = st.err := rfl
@[simp] theorem Status_writeOneToClear_magState (v : Word) (st : Status) : (st.writeOneToClear v).magState = st.magState := rfl
@[simp] theorem Status_writeOneToClear_baroState (v : Word) (st : Status) : (st.writeOneToClear v).baroState = st.baroState := rfl
@[simp] theorem Status_writeOneToClear_magRv (v : Word) (st : Status) : (st.writeOneToClear v).magRv = st.magRv := rfl
@[simp] theorem Status_writeOneToClear_baroRv (v : Word) (st : Status) : (st.writeOneToClear v).baroRv = st.baroRv := rfl
@[simp] theorem Status_writeOneToClear_degen (v : Word) (st : Status) : (st.writeOneToClear v).degen = st.degen := rfl
@[simp] theorem Status_writeOneToClear_altInv (v : Word) (st : Status) : (st.writeOneToClear v).altInv = st.altInv := rfl

/-! ### `Status.reset` -/

@[simp] theorem Status_reset_busy : (Status.reset).busy = false := rfl
@[simp] theorem Status_reset_done : (Status.reset).done = false := rfl
@[simp] theorem Status_reset_cmdOvr : (Status.reset).cmdOvr = false := rfl
@[simp] theorem Status_reset_err : (Status.reset).err = .ok := rfl
@[simp] theorem Status_reset_magState : (Status.reset).magState = .idle := rfl
@[simp] theorem Status_reset_baroState : (Status.reset).baroState = .uninit := rfl
@[simp] theorem Status_reset_magRv : (Status.reset).magRv = false := rfl
@[simp] theorem Status_reset_baroRv : (Status.reset).baroRv = false := rfl
@[simp] theorem Status_reset_degen : (Status.reset).degen = false := rfl
@[simp] theorem Status_reset_altInv : (Status.reset).altInv = false := rfl

/-! ### The statements' own forms of an update -/

theorem complete_eq_afterCompletion (code : ErrCode) (s : State) : complete code s = afterCompletion code s := rfl

end Sys2Proof.Machine
end

