-- ==== Sys2Proof/Laws/Ops.lean ====
section
/-! SUPPORT. What each shared operation can do, said once: the bus port, the meanings of the commands, the engine's turn and
the step. Later proofs cite these instead of unfolding. -/

namespace Sys2Proof.Machine

/-! ### The bus port -/

/-- Everything a BusWrite can answer. -/
theorem busWrite_cases {addr : BusAddr} {p : BusPayload} {s s1 : State} {r : BusWriteResp}
    (h : busWrite addr p s = some (r, s1)) :
    ∃ a rest, s.busIn = a :: rest ∧ r = a.toWrite ∧ s1 = afterTransaction rest (.w addr p r) s := by
  unfold busWrite at h
  split at h
  · cases h
  · rename_i a rest hb
    simp only [Option.some.injEq, Prod.mk.injEq] at h
    obtain ⟨rfl, rfl⟩ := h
    exact ⟨a, rest, hb, rfl, rfl⟩

/-- Everything a BusRead can answer. -/
theorem busRead_cases {addr : BusAddr} {c : Byte} {n : Nat} {s s1 : State} {r : BusReadResp n}
    (h : busRead addr c n s = some (r, s1)) :
    ∃ a rest, s.busIn = a :: rest ∧ r = a.toRead n ∧ s1 = afterTransaction rest (.r addr c n r.record) s := by
  unfold busRead at h
  split at h
  · cases h
  · rename_i a rest hb
    simp only [Option.some.injEq, Prod.mk.injEq] at h
    obtain ⟨rfl, rfl⟩ := h
    exact ⟨a, rest, hb, rfl, rfl⟩

theorem busWrite_cons {addr : BusAddr} {p : BusPayload} {s : State} {a : BusAnswer} {rest : List BusAnswer}
    (h : s.busIn = a :: rest) :
    busWrite addr p s = some (a.toWrite, afterTransaction rest (.w addr p a.toWrite) s) := by
  unfold busWrite; rw [h]; rfl

theorem busRead_cons {addr : BusAddr} {c : Byte} {n : Nat} {s : State} {a : BusAnswer} {rest : List BusAnswer}
    (h : s.busIn = a :: rest) :
    busRead addr c n s = some (a.toRead n, afterTransaction rest (.r addr c n (a.toRead n).record) s) := by
  unfold busRead; rw [h]; rfl

theorem busWrite_nil {addr : BusAddr} {p : BusPayload} {s : State} : busWrite addr p s = none ↔ s.busIn = [] := by
  unfold busWrite; split <;> simp_all

theorem busRead_nil {addr : BusAddr} {c : Byte} {n : Nat} {s : State} : busRead addr c n s = none ↔ s.busIn = [] := by
  unfold busRead; split <;> simp_all

@[simp] theorem toWrite_responds (b : List Byte) : (BusAnswer.responds b).toWrite = .ack := rfl
@[simp] theorem toWrite_fails : BusAnswer.fails.toWrite = .err := rfl
@[simp] theorem toRead_fails (n : Nat) : BusAnswer.fails.toRead n = .err := rfl
@[simp] theorem record_data {n : Nat} (b : Vector Byte n) : (BusReadResp.data b).record = .data b.toList := rfl
@[simp] theorem record_err {n : Nat} : (BusReadResp.err : BusReadResp n).record = .err := rfl

/-- A frame of the right length is the data. -/
@[simp] theorem toRead_toList {n : Nat} (b : Vector Byte n) : (BusAnswer.responds b.toList).toRead n = .data b := by
  simp [BusAnswer.toRead, ← Vector.toList_toArray]

/-- A frame of another length is Err (20_memory.md R93). -/
theorem toRead_wrong_length {n : Nat} {bytes : List Byte} (h : bytes.length ≠ n) :
    (BusAnswer.responds bytes).toRead n = .err := by
  simp [BusAnswer.toRead, h]

/-- An acknowledged write was answered with bytes. -/
theorem ack_only_of_responds {a : BusAnswer} (h : BusWriteResp.ack = a.toWrite) : ∃ bytes, [a] = [.responds bytes] := by
  cases a with
  | responds bytes => exact ⟨bytes, rfl⟩
  | fails => cases h

/-! ### The commands -/

/-- Everything MAG_START can do. -/
theorem execMagStart_cases {s t : State} (h : execMagStart s = .next t) :
    (s.status.magState ≠ .idle ∧ t = complete .invalidState s) ∨
    (s.status.magState = .idle ∧ s.busIn = [] ∧ t = s) ∨
    (∃ rest, s.status.magState = .idle ∧
      t = complete .deviceUnresponsive
        (afterTransaction rest (.w Config.magBusAddr (.command Config.magCmdStart) .err) s)) ∨
    (∃ rest, s.status.magState = .idle ∧
      t = complete .ok (setMagRv false (setMagState .measuringRequested
        (afterTransaction rest (.w Config.magBusAddr (.command Config.magCmdStart) .ack) s)))) := by
  unfold execMagStart at h
  split at h
  · rename_i hm; cases h; exact .inl ⟨hm, rfl⟩
  · rename_i hm
    have hm : s.status.magState = .idle := by simpa using hm
    split at h
    · rename_i hb; cases h; exact .inr (.inl ⟨hm, busWrite_nil.1 hb, rfl⟩)
    · rename_i s1 hb
      obtain ⟨a, rest, -, -, rfl⟩ := busWrite_cases hb
      cases h; exact .inr (.inr (.inl ⟨rest, hm, rfl⟩))
    · rename_i s1 hb
      obtain ⟨a, rest, -, -, rfl⟩ := busWrite_cases hb
      cases h; exact .inr (.inr (.inr ⟨rest, hm, rfl⟩))

/-- Everything MAG_READ can do. -/
theorem execMagRead_cases {s t : State} (h : execMagRead s = .next t) :
    (s.status.magState ≠ .measuringRequested ∧ t = complete .invalidState s) ∨
    (s.status.magState = .measuringRequested ∧ s.busIn = [] ∧ t = s) ∨
    (∃ rest, s.status.magState = .measuringRequested ∧
      t = complete .sensorUnavailable (setMagRv false (setMagState .idle
        (afterTransaction rest (.r Config.magBusAddr Config.magCmdRead magFrameLen .err) s)))) ∨
    (∃ rest b, s.status.magState = .measuringRequested ∧
      t = complete .ok (magReadFrame b
        (afterTransaction rest (.r Config.magBusAddr Config.magCmdRead magFrameLen (.data b.toList)) s))) := by
  unfold execMagRead at h
  split at h
  · rename_i hm; cases h; exact .inl ⟨hm, rfl⟩
  · rename_i hm
    have hm : s.status.magState = .measuringRequested := by simpa using hm
    split at h
    · rename_i hb; cases h; exact .inr (.inl ⟨hm, busRead_nil.1 hb, rfl⟩)
    · rename_i s1 hb
      obtain ⟨a, rest, -, -, rfl⟩ := busRead_cases hb
      cases h; exact .inr (.inr (.inl ⟨rest, hm, rfl⟩))
    · rename_i b s1 hb
      obtain ⟨a, rest, -, -, rfl⟩ := busRead_cases hb
      cases h; exact .inr (.inr (.inr ⟨rest, b, hm, rfl⟩))

/-- The control register write of BARO_CONFIGURE with its response (43_barometer.md R207). -/
abbrev controlWrite (r : BusWriteResp) : BusEntry :=
  .w Config.baroBusAddr (.registerWrite Config.baroRegCtrl Config.baroCtrlValue) r

/-- The config register write of BARO_CONFIGURE with its response (43_barometer.md R207). -/
abbrev configWrite (r : BusWriteResp) : BusEntry :=
  .w Config.baroBusAddr (.registerWrite Config.baroRegConfig Config.baroConfigValue) r

/-- Everything BARO_CONFIGURE can do: wait, fail its control write, or, with both writes answered, fail or complete. -/
theorem execBaroConfigure_cases {s t : State} (h : execBaroConfigure s = .next t) :
    ((s.busIn = [] ∨ ∃ bytes, s.busIn = [.responds bytes]) ∧ t = s) ∨
    (∃ rest, t = complete .deviceUnresponsive (dropToUninit (afterTransaction rest (controlWrite .err) s))) ∨
    (∃ rest rest', t = complete .deviceUnresponsive (dropToUninit
      (afterTransaction rest' (configWrite .err) (afterTransaction rest (controlWrite .ack) s)))) ∨
    (∃ rest rest', t = complete .ok (setBaroState
      (if s.status.baroState = .uninit then .configured else s.status.baroState)
      (afterTransaction rest' (configWrite .ack) (afterTransaction rest (controlWrite .ack) s)))) := by
  unfold execBaroConfigure at h
  split at h
  · rename_i hb; cases h; exact .inl ⟨.inl (busWrite_nil.1 hb), rfl⟩
  · rename_i s1 hb
    obtain ⟨a, rest, -, -, rfl⟩ := busWrite_cases hb
    cases h; exact .inr (.inl ⟨rest, rfl⟩)
  · rename_i s1 hb
    obtain ⟨a, rest, hbus, hack, rfl⟩ := busWrite_cases hb
    split at h
    · rename_i hb2
      have hr : rest = [] := busWrite_nil.1 hb2
      subst hr
      cases h; exact .inl ⟨.inr (by rw [hbus]; exact ack_only_of_responds hack), rfl⟩
    · rename_i s2 hb2
      obtain ⟨a2, rest2, -, -, rfl⟩ := busWrite_cases hb2
      cases h; exact .inr (.inr (.inl ⟨rest, rest2, rfl⟩))
    · rename_i s2 hb2
      obtain ⟨a2, rest2, -, -, rfl⟩ := busWrite_cases hb2
      refine .inr (.inr (.inr ⟨rest, rest2, ?_⟩))
      cases h
      by_cases hu : s.status.baroState = .uninit
      · rw [if_pos hu]; exact congrArg _ (if_pos hu)
      · rw [if_neg hu]; exact congrArg _ (if_neg hu)

/-- Everything BARO_LOAD_CAL can do. -/
theorem execBaroLoadCal_cases {s t : State} (h : execBaroLoadCal s = .next t) :
    (s.status.baroState = .uninit ∧ t = complete .invalidState s) ∨
    (s.status.baroState ≠ .uninit ∧ s.busIn = [] ∧ t = s) ∨
    (∃ rest, s.status.baroState ≠ .uninit ∧ t = complete .deviceUnresponsive (dropToUninit
      (afterTransaction rest (.r Config.baroBusAddr Config.baroRegCalib calLen .err) s))) ∨
    (∃ rest b, s.status.baroState ≠ .uninit ∧ t = complete .ok (setBaroState .ready (writeCal (calParse b)
      (afterTransaction rest (.r Config.baroBusAddr Config.baroRegCalib calLen (.data b.toList)) s)))) := by
  unfold execBaroLoadCal at h
  split at h
  · rename_i hm; cases h; exact .inl ⟨hm, rfl⟩
  · rename_i hm
    split at h
    · rename_i hb; cases h; exact .inr (.inl ⟨hm, busRead_nil.1 hb, rfl⟩)
    · rename_i s1 hb
      obtain ⟨a, rest, -, -, rfl⟩ := busRead_cases hb
      cases h; exact .inr (.inr (.inl ⟨rest, hm, rfl⟩))
    · rename_i b s1 hb
      obtain ⟨a, rest, -, -, rfl⟩ := busRead_cases hb
      cases h; exact .inr (.inr (.inr ⟨rest, b, hm, rfl⟩))

/-- Everything BARO_READ can do. -/
theorem execBaroRead_cases {s t : State} (h : execBaroRead s = .next t) :
    (s.status.baroState ≠ .ready ∧ t = complete .notInitialized s) ∨
    (s.status.baroState = .ready ∧ s.busIn = [] ∧ t = s) ∨
    (∃ rest, s.status.baroState = .ready ∧ t = complete .sensorUnavailable (setBaroRv false
      (afterTransaction rest (.r Config.baroBusAddr Config.baroRegData dataLen .err) s))) ∨
    (∃ rest b, s.status.baroState = .ready ∧ t = complete .ok (compensateAndWrite (dataDecode b).adcT (dataDecode b).adcP
      (afterTransaction rest (.r Config.baroBusAddr Config.baroRegData dataLen (.data b.toList)) s))) := by
  unfold execBaroRead at h
  split at h
  · rename_i hm; cases h; exact .inl ⟨hm, rfl⟩
  · rename_i hm
    have hm : s.status.baroState = .ready := by simpa using hm
    split at h
    · rename_i hb; cases h; exact .inr (.inl ⟨hm, busRead_nil.1 hb, rfl⟩)
    · rename_i s1 hb
      obtain ⟨a, rest, -, -, rfl⟩ := busRead_cases hb
      cases h; exact .inr (.inr (.inl ⟨rest, hm, rfl⟩))
    · rename_i b s1 hb
      obtain ⟨a, rest, -, -, rfl⟩ := busRead_cases hb
      cases h; exact .inr (.inr (.inr ⟨rest, b, hm, rfl⟩))

/-- Everything BARO_COMPENSATE can do. -/
theorem execBaroCompensate_cases {s t : State} (h : execBaroCompensate s = .next t) :
    (s.status.baroState ≠ .ready ∧ t = complete .notInitialized s) ∨
    (s.status.baroState = .ready ∧
      t = complete .ok (compensateAndWrite (adcOperand s.latch.larg0) (adcOperand s.latch.larg1) s)) := by
  unfold execBaroCompensate at h
  split at h
  · rename_i hm; cases h; exact .inl ⟨hm, rfl⟩
  · rename_i hm
    have hm : s.status.baroState = .ready := by simpa using hm
    cases h; exact .inr ⟨hm, rfl⟩

/-! ### The engine and the step -/

/-- The two outcomes of a guarded host access that is a next state. -/
theorem guardAccess_next {off : Word} {bytes : Nat} {k : StepResult} {t : State}
    (h : guardAccess off bytes k = .next t) :
    accessShapeOk off bytes = true ∧ accessInWindow off = true ∧ k = .next t := by
  unfold guardAccess at h
  split at h
  · cases h
  · split at h
    · cases h
    · rename_i h1 h2; exact ⟨by simpa using h1, by simpa using h2, h⟩

/-- `t` is `s` with at most two listed transactions, all but the last acknowledged, appended to the history, and their answers
used; none where nothing is answered. -/
def Recorded (s t : State) : Prop :=
  ∃ new rest, t = { s with busIn := rest, history := s.history ++ new } ∧ new.length ≤ 2 ∧
    (∀ e ∈ new, ListedTransaction e) ∧ (∀ e ∈ new.dropLast, e.failed = false) ∧ (s.busIn = [] → new = [] ∧ rest = [])

theorem Recorded.nothing (s : State) : Recorded s s :=
  ⟨[], s.busIn, by simp, by simp, by simp, by simp, fun h => ⟨rfl, h⟩⟩

theorem Recorded.single {s : State} {e : BusEntry} {a : BusAnswer} {rest : List BusAnswer} (hb : s.busIn = a :: rest)
    (he : ListedTransaction e) : Recorded s (afterTransaction rest e s) :=
  ⟨[e], rest, rfl, by simp, by simpa using he, by simp, fun h => by rw [hb] at h; cases h⟩

theorem Recorded.write {s : State} {addr : BusAddr} {p : BusPayload} (he : ∀ r, ListedTransaction (.w addr p r)) :
    Recorded s ((busWrite addr p s).elim s Prod.snd) := by
  cases hb : s.busIn with
  | nil => rw [busWrite_nil.2 hb]; exact .nothing s
  | cons a rest => rw [busWrite_cons hb]; exact .single hb (he _)

theorem Recorded.read {s : State} {addr : BusAddr} {c : Byte} {n : Nat}
    (he : ∀ r : BusReadResp n, ListedTransaction (.r addr c n r.record)) :
    Recorded s ((busRead addr c n s).elim s Prod.snd) := by
  cases hb : s.busIn with
  | nil => rw [busRead_nil.2 hb]; exact .nothing s
  | cons a rest => rw [busRead_cons hb]; exact .single hb (he _)

/-- What `recordCompleted` answers. -/
theorem recordCompleted_recorded (i : Instr) (s : State) : Recorded s (recordCompleted i s) := by
  have guarded : ∀ {c : Prop} [Decidable c] {u : State}, Recorded s u → Recorded s (if c then s else u) := by
    intro c _ u h
    split
    · exact .nothing s
    · exact h
  cases i with
  | nop => exact .nothing s
  | decBeu16 => exact .nothing s
  | decBes16 => exact .nothing s
  | decLeu16 => exact .nothing s
  | decLes16 => exact .nothing s
  | decU20 => exact .nothing s
  | baroCompensate => exact .nothing s
  | magStart => exact guarded (.write .magStart)
  | magRead => exact guarded (.read .magRead)
  | baroLoadCal => exact guarded (.read .baroCalib)
  | baroRead => exact guarded (.read .baroData)
  | baroConfigure =>
    simp only [recordCompleted]
    split
    · exact .nothing s
    · rename_i s1 hb
      obtain ⟨a, rest, hbus, -, rfl⟩ := busWrite_cases hb
      exact .single hbus (.baroControl _)
    · rename_i s1 hb
      obtain ⟨a, rest, hbus, -, rfl⟩ := busWrite_cases hb
      cases rest with
      | nil => exact .single hbus (.baroControl _)
      | cons a2 rest2 =>
        refine ⟨[controlWrite .ack, configWrite a2.toWrite], rest2, ?_, by simp, ?_, ?_, fun h => by rw [hbus] at h; cases h⟩
        · rw [show writeConfig (afterTransaction (a2 :: rest2) (controlWrite .ack) s) = _ from busWrite_cons rfl]
          simp [afterTransaction]
        · intro e he
          simp only [List.mem_cons, List.not_mem_nil, or_false] at he
          rcases he with rfl | rfl
          · exact .baroControl _
          · exact .baroConfig _
        · intro e he
          simp only [List.dropLast, List.mem_singleton] at he
          subst he; rfl

/-- What a command has completed does not depend on the events still to come. -/
theorem recordCompleted_agenda (i : Instr) (s : State) (rest : List Event) :
    (recordCompleted i { s with agenda := rest }).history = (recordCompleted i s).history ∧
      (recordCompleted i { s with agenda := rest }).busIn = (recordCompleted i s).busIn := by
  cases i <;> try exact ⟨rfl, rfl⟩
  case baroConfigure =>
    rcases hb : s.busIn with _ | ⟨_ | _, _ | ⟨_, _⟩⟩ <;> simp [recordCompleted, busWrite, hb]
  all_goals
    simp only [recordCompleted]
    split <;> cases hb : s.busIn <;> simp [busWrite, busRead, hb]

/-- What `abortCommand` answers; it changes nothing where no command runs. -/
theorem abortCommand_recorded (s : State) :
    Recorded s (abortCommand s) ∧ (s.status.busy = false → abortCommand s = s) := by
  unfold abortCommand
  split
  · rename_i hb
    refine ⟨?_, fun h => by rw [hb] at h; cases h⟩
    split
    · exact recordCompleted_recorded _ s
    · exact .nothing s
  · exact ⟨.nothing s, fun _ => rfl⟩

/-- The traffic of a command that completes is what `recordCompleted` records, in its one step (40_control.md R145). -/
theorem exec_traffic {i : Instr} {s t : State} (h : exec i s = .next t) (hc : t ≠ s) :
    t.history = (recordCompleted i s).history ∧ t.busIn = (recordCompleted i s).busIn := by
  cases i with
  | nop => cases h; exact ⟨rfl, rfl⟩
  | decBeu16 => cases h; exact ⟨rfl, rfl⟩
  | decBes16 => cases h; exact ⟨rfl, rfl⟩
  | decLeu16 => cases h; exact ⟨rfl, rfl⟩
  | decLes16 => cases h; exact ⟨rfl, rfl⟩
  | decU20 => cases h; exact ⟨rfl, rfl⟩
  | baroCompensate =>
    rcases execBaroCompensate_cases h with ⟨-, rfl⟩ | ⟨-, rfl⟩ <;> exact ⟨by simp [recordCompleted], by simp [recordCompleted]⟩
  | magStart =>
    change execMagStart s = .next t at h
    unfold execMagStart at h
    simp only [recordCompleted]
    split at h
    · rename_i hm; rw [if_pos hm]; cases h; exact ⟨rfl, rfl⟩
    · rename_i hm; rw [if_neg hm]
      split at h <;> rename_i hb
      · cases h; exact absurd rfl hc
      all_goals rw [hb]; cases h; exact ⟨rfl, rfl⟩
  | magRead =>
    change execMagRead s = .next t at h
    unfold execMagRead at h
    simp only [recordCompleted]
    split at h
    · rename_i hm; rw [if_pos hm]; cases h; exact ⟨rfl, rfl⟩
    · rename_i hm; rw [if_neg hm]
      split at h <;> rename_i hb
      · cases h; exact absurd rfl hc
      all_goals rw [hb]; cases h; exact ⟨rfl, rfl⟩
  | baroLoadCal =>
    change execBaroLoadCal s = .next t at h
    unfold execBaroLoadCal at h
    simp only [recordCompleted]
    split at h
    · rename_i hm; rw [if_pos hm]; cases h; exact ⟨rfl, rfl⟩
    · rename_i hm; rw [if_neg hm]
      split at h <;> rename_i hb
      · cases h; exact absurd rfl hc
      all_goals rw [hb]; cases h; exact ⟨rfl, rfl⟩
  | baroRead =>
    change execBaroRead s = .next t at h
    unfold execBaroRead at h
    simp only [recordCompleted]
    split at h
    · rename_i hm; rw [if_pos hm]; cases h; exact ⟨rfl, rfl⟩
    · rename_i hm; rw [if_neg hm]
      split at h <;> rename_i hb
      · cases h; exact absurd rfl hc
      · rw [hb]; cases h; exact ⟨rfl, rfl⟩
      · rw [hb]; cases h; exact ⟨by simp, by simp⟩
  | baroConfigure =>
    change execBaroConfigure s = .next t at h
    rcases hb : writeControl s with _ | ⟨_ | _, s1⟩ <;> simp only [execBaroConfigure, recordCompleted, hb] at h ⊢
    · cases h; exact absurd rfl hc
    · rcases hb2 : writeConfig s1 with _ | ⟨_ | _, s2⟩ <;> simp only [hb2] at h ⊢
      · cases h; exact absurd rfl hc
      · cases h; split <;> exact ⟨rfl, rfl⟩
      · cases h; exact ⟨rfl, rfl⟩
    · cases h; exact ⟨rfl, rfl⟩

/-- Everything an engine's turn can do. -/
theorem engineTurn_cases {s t : State} (h : engineTurn s = .next t) :
    (s.status.busy = false ∧ t = s) ∨
    (s.status.busy = true ∧ ∃ i, decode s.latch.lcmd = .ok i ∧ exec i s = .next t) ∨
    (s.status.busy = true ∧ (∃ e, decode s.latch.lcmd = .error e) ∧ t = complete .illegalCommand s) := by
  unfold engineTurn at h
  split at h
  · rename_i hb
    unfold engineRun at h
    split at h
    · rename_i i hd; exact .inr (.inl ⟨hb, i, hd, h⟩)
    · rename_i e hd; cases h; exact .inr (.inr ⟨hb, ⟨e, hd⟩, rfl⟩)
  · rename_i hb; cases h; exact .inl ⟨by simpa using hb, rfl⟩

/-- Everything a turn can do: the engine's turn, a host read, a host write, an event that leaves the block alone, an added
bus answer, a reset. -/
theorem takeTurn_cases {s t : State} (h : takeTurn s = .next t) :
    ((s.agenda = [] ∨ ∃ rest, s.agenda = .engine :: rest) ∧ engineTurn (turnTaken s) = .next t) ∨
    (∃ off bytes rest r, s.agenda = .hostRead off bytes :: rest ∧ accessShapeOk off bytes = true ∧
      t = { turnTaken s with hostReads := s.hostReads ++ [r] }) ∨
    (∃ off bytes v rest, s.agenda = .hostWrite off bytes v :: rest ∧ accessShapeOk off bytes = true ∧
      t = writeOffset off v (turnTaken s)) ∨
    ((∃ e rest, s.agenda = e :: rest ∧ (e = .otherMaster ∨ ∃ time, e = .wait time)) ∧ t = turnTaken s) ∨
    (∃ a rest, s.agenda = .busAnswer a :: rest ∧ t = { turnTaken s with busIn := s.busIn ++ [a] }) ∨
    (∃ rest, s.agenda = .reset :: rest ∧ t = resetBlock (abortCommand (turnTaken s))) := by
  unfold takeTurn at h
  split at h
  · rename_i e rest ha
    have hs : { s with agenda := rest } = turnTaken s := by simp [turnTaken, ha]
    rw [hs] at h
    cases e with
    | hostRead off bytes =>
      obtain ⟨h1, -, h3⟩ := guardAccess_next h
      split at h3
      · cases h3
      · cases h3; exact .inr (.inl ⟨off, bytes, rest, _, ha, h1, rfl⟩)
    | hostWrite off bytes v =>
      obtain ⟨h1, -, h3⟩ := guardAccess_next h
      cases h3; exact .inr (.inr (.inl ⟨off, bytes, v, rest, ha, h1, rfl⟩))
    | wait time => cases h; exact .inr (.inr (.inr (.inl ⟨⟨_, rest, ha, .inr ⟨time, rfl⟩⟩, rfl⟩)))
    | busAnswer a => cases h; exact .inr (.inr (.inr (.inr (.inl ⟨a, rest, ha, rfl⟩))))
    | engine => exact .inl ⟨.inr ⟨rest, ha⟩, h⟩
    | reset => cases h; exact .inr (.inr (.inr (.inr (.inr ⟨rest, ha, rfl⟩))))
    | otherMaster =>
      simp only [perform] at h
      split at h
      · cases h
      · cases h; exact .inr (.inr (.inr (.inl ⟨⟨_, rest, ha, .inl rfl⟩, rfl⟩)))
  · rename_i ha
    have hs : turnTaken s = s := by cases s; simp_all [turnTaken]
    exact .inl ⟨.inl ha, by rw [hs]; exact h⟩

/-- A step that answers a next state is a turn of a well-formed instance. -/
theorem step_next {s t : State} (h : step s = .next t) : s.premise.wf = true ∧ takeTurn s = .next t := by
  unfold step nextTurn at h
  split at h
  · rename_i hp; exact ⟨hp, h⟩
  · cases h

/-- A step of a well-formed instance is its turn. -/
theorem step_of_wf {s : State} (h : s.premise.wf = true) : step s = takeTurn s := by
  unfold step nextTurn; rw [if_pos h]

/-- A step of an ill-formed instance is refused (00_scope.md R13). -/
theorem step_of_not_wf {s : State} (h : s.premise.wf = false) : step s = .refused .illFormedInstance := by
  unfold step nextTurn; rw [if_neg (by simp [h])]

/-- The premise of a well-formed instance states the one mask of R13 twice. -/
theorem premise_wf_iff {p : InstancePremise} : p.wf = true ↔ p = ⟨AxisMask.xyz, AxisMask.xyz⟩ := by
  obtain ⟨a, b⟩ := p
  simp only [InstancePremise.wf, Bool.and_eq_true, beq_iff_eq, InstancePremise.mk.injEq]
  constructor
  · rintro ⟨rfl, rfl⟩; exact ⟨rfl, rfl⟩
  · rintro ⟨rfl, rfl⟩; exact ⟨rfl, rfl⟩

/-- BASE is a multiple of 0x100 in every instance (20_memory.md R80). -/
theorem base_aligned : baseAligned Config.base = true := by
  have h : Config.base.toNat % 0x100 = 0 := by
    rw [Config.base, BitVec.toNat_append]; simp
    omega
  simp [baseAligned, h]

end Sys2Proof.Machine
end

