-- ==== Sys2Proof/Laws/PerInstr.lean ====
section
/-! SUPPORT. Statements about every command as syntax, one lemma per constructor. -/

/-- A command is well formed, its word has every reserved bit zero and its opcode byte is read back by the decoder, both from
the register value and from the table's numbering of it (30_encoding.md R110, R112). -/
def Sys2Proof.Laws.EncodedOpcode.Statement (i : Sys2Proof.Instr) : Prop :=
  i.wf = true ∧ Sys2Proof.rsvField (Sys2Proof.encode i) = 0 ∧
    Sys2Proof.opcField (Sys2Proof.encode i) = Sys2Proof.opcodeOf i ∧
    Sys2Proof.decode (Sys2Proof.encode i) = .ok i ∧
    Sys2Proof.decodeTableWord 32 (Sys2Proof.encode i).toNat = some i

theorem Sys2Proof.Laws.EncodedOpcode.nop : Sys2Proof.Laws.EncodedOpcode.Statement .nop := by
  unfold Sys2Proof.Laws.EncodedOpcode.Statement; decide

theorem Sys2Proof.Laws.EncodedOpcode.decBeu16 : Sys2Proof.Laws.EncodedOpcode.Statement .decBeu16 := by
  unfold Sys2Proof.Laws.EncodedOpcode.Statement; decide

theorem Sys2Proof.Laws.EncodedOpcode.decBes16 : Sys2Proof.Laws.EncodedOpcode.Statement .decBes16 := by
  unfold Sys2Proof.Laws.EncodedOpcode.Statement; decide

theorem Sys2Proof.Laws.EncodedOpcode.decLeu16 : Sys2Proof.Laws.EncodedOpcode.Statement .decLeu16 := by
  unfold Sys2Proof.Laws.EncodedOpcode.Statement; decide

theorem Sys2Proof.Laws.EncodedOpcode.decLes16 : Sys2Proof.Laws.EncodedOpcode.Statement .decLes16 := by
  unfold Sys2Proof.Laws.EncodedOpcode.Statement; decide

theorem Sys2Proof.Laws.EncodedOpcode.decU20 : Sys2Proof.Laws.EncodedOpcode.Statement .decU20 := by
  unfold Sys2Proof.Laws.EncodedOpcode.Statement; decide

theorem Sys2Proof.Laws.EncodedOpcode.magStart : Sys2Proof.Laws.EncodedOpcode.Statement .magStart := by
  unfold Sys2Proof.Laws.EncodedOpcode.Statement; decide

theorem Sys2Proof.Laws.EncodedOpcode.magRead : Sys2Proof.Laws.EncodedOpcode.Statement .magRead := by
  unfold Sys2Proof.Laws.EncodedOpcode.Statement; decide

theorem Sys2Proof.Laws.EncodedOpcode.baroConfigure : Sys2Proof.Laws.EncodedOpcode.Statement .baroConfigure := by
  unfold Sys2Proof.Laws.EncodedOpcode.Statement; decide

theorem Sys2Proof.Laws.EncodedOpcode.baroLoadCal : Sys2Proof.Laws.EncodedOpcode.Statement .baroLoadCal := by
  unfold Sys2Proof.Laws.EncodedOpcode.Statement; decide

theorem Sys2Proof.Laws.EncodedOpcode.baroRead : Sys2Proof.Laws.EncodedOpcode.Statement .baroRead := by
  unfold Sys2Proof.Laws.EncodedOpcode.Statement; decide

theorem Sys2Proof.Laws.EncodedOpcode.baroCompensate : Sys2Proof.Laws.EncodedOpcode.Statement .baroCompensate := by
  unfold Sys2Proof.Laws.EncodedOpcode.Statement; decide
end

