-- ==== Sys2Proof/Machine/HostProgram.lean ====
section
/-! DEFINITION. The host statements of 30_encoding.md section 6 and the host port events they expand to (R126). -/

namespace Sys2Proof.Machine

/-- A register whose value is a binary64 pair, for RDF (30_encoding.md R126). -/
inductive RegPair where
  | magNorm | tfine | temp | press | alt
  deriving DecidableEq, Repr

/-- The LO register of a pair; HI stands at LO + 4 (20_memory.md R85). -/
def RegPair.lo : RegPair → Reg
  | .magNorm => .magNormLo
  | .tfine => .tfineLo
  | .temp => .tempLo
  | .press => .pressLo
  | .alt => .altLo

/-- The HI register of a pair. -/
def RegPair.hi : RegPair → Reg
  | .magNorm => .magNormHi
  | .tfine => .tfineHi
  | .temp => .tempHi
  | .press => .pressHi
  | .alt => .altHi

/-- The host statements of 30_encoding.md section 6. -/
inductive HostStatement where
  | wr (r : Reg) (v : Word)
  | rd (r : Reg)
  | cmdw (w : Word)
  | cmd (i : Instr)
  | bytes (r : Reg) (b0 b1 b2 b3 : Byte)
  /-- The poll loop: `early` reads of STATUS before the engine's turn and one after it (R126, log entry 22). -/
  | poll (early : Nat)
  | clr
  | wait (time : Nat)
  | rdf (p : RegPair)
  deriving DecidableEq, Repr

/-- A 32-bit write of `v` to a register. -/
def writeEvent (r : Reg) (v : Word) : Event := .hostWrite (BitVec.ofNat 32 r.offset) 4 v

/-- A 32-bit read of a register. -/
def readEvent (r : Reg) : Event := .hostRead (BitVec.ofNat 32 r.offset) 4

/-- The host port events of a statement (30_encoding.md R126). -/
def HostStatement.expand : HostStatement → List Event
  | .wr r v => [writeEvent r v]
  | .rd r => [readEvent r]
  | .cmdw w => [writeEvent .cmd w]
  | .cmd i => [writeEvent .cmd (encode i)]
  | .bytes r b0 b1 b2 b3 => [writeEvent r (b3 ++ b2 ++ b1 ++ b0)]
  | .poll early => List.replicate early (readEvent .status) ++ [.engine, readEvent .status]
  | .clr => [writeEvent .status 0x00000006#32]
  | .wait time => [.wait time]
  | .rdf p => [readEvent p.lo, readEvent p.hi]

/-- The events of a host program: those of its statements in order (30_encoding.md R126). -/
def hostProgram (p : List HostStatement) : List Event := p.flatMap HostStatement.expand

end Sys2Proof.Machine
end

