-- ==== Sys2Proof/Tests/Slice0.lean ====
section
/-! SUPPORT. Small tests of one step each, with the expected values of spec/95_test_vectors.md, and for every statement of
Certificates/Slice0/Obligations.lean that has hypotheses a witness that meets them. -/

namespace Sys2Proof.Machine.Tests

/-! ### Form -/

/-- 20_memory.md R81: a narrow, a wide and an unaligned access are ill-formed. -/
theorem test_wf_refuses_access_shapes :
    accessShapeOk 0x008#32 1 = false ∧ accessShapeOk 0x008#32 2 = false ∧ accessShapeOk 0x008#32 8 = false ∧
      accessShapeOk 0x009#32 4 = false ∧ accessShapeOk 0x00A#32 4 = false ∧ accessShapeOk 0x008#32 4 = true := by decide

/-- 20_memory.md R80: the window ends at 0x0FC. -/
theorem test_wf_refuses_outside_window :
    accessInWindow 0x100#32 = false ∧ accessInWindow 0xFFFFFFFC#32 = false ∧ accessInWindow 0x0FC#32 = true := by decide

/-- 20_memory.md R80: BASE is a multiple of 0x100. -/
theorem test_wf_refuses_base : baseAligned 0x1080#32 = false ∧ baseAligned 0x1000#32 = true := by decide

/-- 00_scope.md R13: different masks, a mask without Z and one with the temperature channel are ill-formed instances. -/
theorem test_wf_refuses_instances :
    InstancePremise.wf ⟨⟨true, true, true, false⟩, ⟨true, true, false, false⟩⟩ = false ∧
      InstancePremise.wf ⟨⟨true, true, false, false⟩, ⟨true, true, false, false⟩⟩ = false ∧
      InstancePremise.wf ⟨⟨true, true, true, true⟩, ⟨true, true, true, true⟩⟩ = false ∧
      InstancePremise.wf ⟨⟨true, true, true, false⟩, ⟨true, true, true, false⟩⟩ = true ∧
      AxisMask.frameLen ⟨true, true, true, false⟩ = 7 := by decide

/-! ### Decoding: every word of 30_encoding.md R112 written out bit by bit -/

theorem test_decode_control_and_codec :
    decode 0b00000000000000000000000000000000#32 = .ok .nop ∧
      decode 0b00000000000000000000000000000001#32 = .ok .decBeu16 ∧
      decode 0b00000000000000000000000000000010#32 = .ok .decBes16 ∧
      decode 0b00000000000000000000000000000011#32 = .ok .decLeu16 ∧
      decode 0b00000000000000000000000000000100#32 = .ok .decLes16 ∧
      decode 0b00000000000000000000000000000101#32 = .ok .decU20 := by decide

theorem test_decode_sensors :
    decode 0b00000000000000000000000000010000#32 = .ok .magStart ∧
      decode 0b00000000000000000000000000010001#32 = .ok .magRead ∧
      decode 0b00000000000000000000000000100000#32 = .ok .baroConfigure ∧
      decode 0b00000000000000000000000000100001#32 = .ok .baroLoadCal ∧
      decode 0b00000000000000000000000000100010#32 = .ok .baroRead ∧
      decode 0b00000000000000000000000000100011#32 = .ok .baroCompensate := by decide

/-- V-K3: unassigned opcodes, and words with a reserved bit set whatever their opcode. -/
theorem test_decode_refuses :
    [0x06#32, 0x0F#32, 0x12#32, 0x1F#32, 0x24#32, 0x2F#32, 0x30#32, 0xFF#32].all
        (fun w => decide (decode w = .error .unassignedOpcode)) = true ∧
      [0x100#32, 0x101#32, 0x111#32, 0x80000020#32, 0xFFFFFFFF#32].all
        (fun w => decide (decode w = .error .reservedBits)) = true := by decide

theorem test_decodeTableWord :
    decodeTableWord 32 0x22 = some .baroRead ∧ decodeTableWord 8 0x22 = some .baroRead ∧
      decodeTableWord 32 0x122 = none := by decide

/-! ### States -/

/-- The status of a block that runs a command, in these sequencer states. -/
def running (m : MagState) (b : BaroState) : Status :=
  { Status.reset with busy := true, magState := m, baroState := b }

/-- The block with `word` latched, the operands `l0` and `l1`, these sequencer states and these bus answers; engine next. -/
def block (word : Word) (m : MagState) (b : BaroState) (answers : List BusAnswer)
    (l0 : Word := 0) (l1 : Word := 0) : State :=
  { State.reset with status := running m b, latch := ⟨word, l0, l1⟩, busIn := answers }

/-- The block after reset with one host event to come. -/
def hosted (e : Event) : State := { State.reset with agenda := [e] }

/-- What a value of the next state is. -/
def nextValue {α : Type} (f : State → α) : StepResult → Option α
  | .next t => some (f t)
  | .fault _ => none
  | .refused _ => none

/-- The reference calibration (V-S3). -/
def refCal : Calib :=
  { t1 := 27504, t2 := 26435, t3 := -1000, p1 := 36477, p2 := -10685, p3 := 3024, p4 := 2855, p5 := 140, p6 := -7,
    p7 := 15500, p8 := -14600, p9 := 6000 }

/-- The 24 bytes of the reference calibration block (V-R8). -/
def refBlock : Vector Byte 24 :=
  ⟨#[0x70, 0x6B, 0x43, 0x67, 0x18, 0xFC, 0x7D, 0x8E, 0x43, 0xD6, 0xD0, 0x0B, 0x27, 0x0B, 0x8C, 0x00, 0xF9, 0xFF, 0x8C, 0x3C,
     0xF8, 0xC6, 0x70, 0x17], by decide⟩

/-- The reference data block (V-R14). -/
def refData : Vector Byte 6 := ⟨#[0x65, 0x5A, 0xC0, 0x7E, 0xED, 0x00], by decide⟩

/-- The frame of V-M5. -/
def magFrame : Vector Byte 7 := ⟨#[0x00, 0x00, 0x03, 0xFF, 0xFC, 0x00, 0x00], by decide⟩

/-- READY with the reference calibration. -/
def ready (word : Word) (answers : List BusAnswer) (l0 : Word := 0) (l1 : Word := 0) : State :=
  { block word .idle .ready answers l0 l1 with cal := refCal.regs }

/-! ### One step of each command -/

/-- V-K1. -/
theorem test_nop : nextValue (·.status.word) (step (block 0x00 .idle .uninit [])) = some 0x00000002#32 := by decide

/-- V-K3.1, V-K4: an illegal word completes with code 5 and keeps the sequencer states. -/
theorem test_illegal :
    nextValue (·.status.word) (step (block 0x06 .idle .uninit [])) = some 0x00000052#32 ∧
      nextValue (·.status.word) (step (block 0x111 .measuringRequested .ready [])) = some 0x00000952#32 := by decide

/-- V-D4, V-D5. -/
theorem test_decBeu16 :
    nextValue (·.res0) (step (block 0x01 .idle .uninit [] 0x00000080)) = some 0x00008000#32 ∧
      nextValue (·.res0) (step (block 0x01 .idle .uninit [] 0xABCD3412)) = some 0x00001234#32 := by decide

/-- V-D6, V-D7. -/
theorem test_decBes16 :
    nextValue (·.res0) (step (block 0x02 .idle .uninit [] 0x00000080)) = some 0xFFFF8000#32 ∧
      nextValue (·.res0) (step (block 0x02 .idle .uninit [] 0x0000FF7F)) = some 0x00007FFF#32 := by decide

/-- V-D12, V-D15. -/
theorem test_decLeu16 :
    nextValue (·.res0) (step (block 0x03 .idle .uninit [] 0x00006B70)) = some 0x00006B70#32 ∧
      nextValue (·.res0) (step (block 0x03 .idle .uninit [] 0x007D8E7D)) = some 0x00008E7D#32 := by decide

/-- V-D16, V-D18. -/
theorem test_decLes16 :
    nextValue (·.res0) (step (block 0x04 .idle .uninit [] 0x0000FC18)) = some 0xFFFFFC18#32 ∧
      nextValue (·.res0) (step (block 0x04 .idle .uninit [] 0x00007FFF)) = some 0x00007FFF#32 := by decide

/-- V-D22, V-D24, V-D27. -/
theorem test_decU20 :
    nextValue (·.res0) (step (block 0x05 .idle .uninit [] 0x00C05A65)) = some 0x000655AC#32 ∧
      nextValue (·.res0) (step (block 0x05 .idle .uninit [] 0x000FFFFF)) = some 0x000FFFF0#32 ∧
      nextValue (·.res0) (step (block 0x05 .idle .uninit [] 0xFF00ED7E)) = some 0x0007EED0#32 := by decide

/-- V-M1, V-M2, V-M3. -/
theorem test_magStart :
    nextValue (·.status.word) (step (block 0x10 .idle .uninit [.responds []])) = some 0x00000102#32 ∧
      nextValue (·.status.word) (step (block 0x10 .idle .uninit [.fails])) = some 0x00000012#32 ∧
      nextValue (·.status.word) (step (block 0x10 .measuringRequested .uninit [])) = some 0x00000142#32 := by decide

/-- V-M5. -/
theorem test_magRead :
    nextValue (fun t => (t.status.word, t.mag)) (step (block 0x11 .measuringRequested .uninit [.responds magFrame.toList])) =
      some (0x00001002#32, ⟨0x00000003, 0xFFFFFFFC, 0, 0, 0, 0x40140000⟩) := by decide +kernel

/-- V-M4, V-M6, and a frame of another length is Err (20_memory.md R93). -/
theorem test_magRead_fails :
    nextValue (·.status.word) (step (block 0x11 .idle .uninit [])) = some 0x00000042#32 ∧
      nextValue (·.status.word) (step (block 0x11 .measuringRequested .uninit [.fails])) = some 0x00000022#32 ∧
      nextValue (·.status.word) (step (block 0x11 .measuringRequested .uninit [.responds [0, 0]])) = some 0x00000022#32 := by
  decide

/-- V-R1, V-R2, V-R3, V-R5 (with BARO_RV 0). -/
theorem test_baroConfigure :
    nextValue (·.status.word) (step (block 0x20 .idle .uninit [.responds [], .responds []])) = some 0x00000402#32 ∧
      nextValue (·.status.word) (step (block 0x20 .idle .uninit [.fails])) = some 0x00000012#32 ∧
      nextValue (·.status.word) (step (block 0x20 .idle .ready [.responds [], .fails])) = some 0x00000012#32 ∧
      nextValue (·.status.word) (step (block 0x20 .idle .ready [.responds [], .responds []])) = some 0x00000802#32 := by
  decide

/-- V-R7, V-R8, V-R9. -/
theorem test_baroLoadCal :
    nextValue (·.status.word) (step (block 0x21 .idle .uninit [])) = some 0x00000042#32 ∧
      nextValue (fun t => (t.status.word, t.cal)) (step (block 0x21 .idle .configured [.responds refBlock.toList])) =
        some (0x00000802#32, ⟨0x00006B70, 0x00006743, 0xFFFFFC18, 0x00008E7D, 0xFFFFD643, 0x00000BD0, 0x00000B27,
          0x0000008C, 0xFFFFFFF9, 0x00003C8C, 0xFFFFC6F8, 0x00001770⟩) ∧
      nextValue (·.status.word) (step (block 0x21 .idle .configured [.fails])) = some 0x00000012#32 := by decide

/-- V-R12, V-R13, V-R15. -/
theorem test_baroRead_fails :
    nextValue (·.status.word) (step (block 0x22 .idle .uninit [])) = some 0x00000032#32 ∧
      nextValue (·.status.word) (step (block 0x22 .idle .configured [])) = some 0x00000432#32 ∧
      nextValue (·.status.word) (step (ready 0x22 [.fails])) = some 0x00000822#32 := by decide

/-- V-R14, the registers that no instance parameter touches. -/
theorem test_baroRead :
    nextValue (fun t => (t.baro.adcT, t.baro.adcP, t.baro.tfineLo, t.baro.tfineHi, t.baro.tempLo, t.baro.tempHi))
        (step (ready 0x22 [.responds refData.toList])) =
      some (0x0007EED0, 0x000655AC, 0x97936000, 0x40FF5A64, 0x460F8000, 0x4039151D) := by decide +kernel

/-- V-R16, V-R17. -/
theorem test_baroCompensate :
    nextValue (·.status.word) (step (block 0x23 .idle .configured [] 0x0007EED0 0x000655AC)) = some 0x00000432#32 ∧
      nextValue (fun t => (t.baro.adcT, t.baro.adcP, t.baro.tfineLo, t.baro.tfineHi, t.baro.tempLo, t.baro.tempHi))
        (step (ready 0x23 [] 0xFFF7EED0 0xABC655AC)) =
      some (0x0007EED0, 0x000655AC, 0x97936000, 0x40FF5A64, 0x460F8000, 0x4039151D) := by decide +kernel

/-! ### The arithmetic -/

/-- V-N3, V-N4, V-N8. -/
theorem test_magnitude :
    magnitude 1 1 1 = 0x3FFBB67AE8584CAA#64 ∧ magnitude (-32768) (-32768) (-32768) = 0x40EBB67AE8584CAA#64 ∧
      magnitude 100 (-200) 300 = 0x407762A6DD997171#64 := by decide +kernel

/-- The pressure and the two flags of a compensation, whatever POW_F64 is. -/
def pressureOf (order : SquareOrder) (adcT adcP : BitVec 20) (c : Calib) : F64 × Bool × Bool :=
  let res := compensateWith order powF64 adcT adcP c
  (res.pressure, res.degenerate, res.altInvalid)

/-- V-C3, V-C4, V-C5. -/
theorem test_pressure :
    pressureOf .squareFirst 519888 1048575 refCal = (0xC05093C2A601DBCA, false, true) ∧
      pressureOf .squareFirst 187165 489747 refCal = (0x408740616F0810C0, false, false) ∧
      pressureOf .leftToRight 187165 489747 refCal = (0x408740616F0810BF, false, false) ∧
      pressureOf .leftToRight 519888 415148 { refCal with p1 := 0 } = (0, true, false) := by decide +kernel

/-- 20_memory.md R82 to R84 through host statements: V-K8 and V-K6.3. -/
theorem test_host :
    nextValue (·.hostReads) (step { State.reset with agenda := hostProgram [.rd .id] }) =
        some [⟨0x000, 0x53444307⟩] ∧
      nextValue (·.status.word) (step { State.reset with
        status := { Status.reset with done := true, cmdOvr := true, magState := .measuringRequested },
        agenda := hostProgram [.clr] }) = some 0x00000100#32 := by decide

/-! ### Witnesses: states that meet the hypotheses of the statements -/

theorem witness_StepRunsTheLatchedCommand :
    EngineNext (block 0x11 .idle .uninit []) ∧ decode (block 0x11 .idle .uninit []).latch.lcmd = .ok .magRead ∧
      EngineNext { block 0x23 .idle .uninit [] with agenda := [.engine, .reset] } := by
  refine ⟨⟨rfl, rfl, .inl rfl⟩, rfl, rfl, rfl, .inr ⟨_, rfl⟩⟩

theorem witness_IllegalWordsOnlyComplete :
    EngineNext (block 0x06 .idle .uninit []) ∧ (∀ i, (block 0x06 .idle .uninit []).latch.lcmd ≠ encode i) ∧
      ∃ t, step (block 0x06 .idle .uninit []) = .next t ∧ t.status.busy = false :=
  ⟨⟨rfl, rfl, .inl rfl⟩, fun i => by cases i <;> decide, _, rfl, rfl⟩

theorem witness_IdleEngineDoesNothing :
    State.reset.premise.wf = true ∧ State.reset.status.busy = false ∧ State.reset.agenda = [] ∧
      (hosted .engine).premise.wf = true ∧ (hosted .engine).status.busy = false ∧
      (hosted .engine).agenda = .engine :: [] := by decide

/-- The event that `hosted` holds is the next one. -/
theorem hosted_eventNext (e : Event) : EventNext (hosted e) e [] := ⟨rfl, rfl⟩

theorem witness_CmdWriteIsAccepted :
    EventNext (hosted (.hostWrite 0x004#32 4 0x10)) (.hostWrite 0x004#32 4 0x10) [] ∧
      (hosted (.hostWrite 0x004#32 4 0x10)).status.busy = false := ⟨hosted_eventNext _, rfl⟩

/-- A block that runs MAG_START, with a NOP write to come. -/
def busyHosted : State := { block 0x10 .idle .uninit [] with agenda := [.hostWrite 0x004#32 4 (encode .nop)] }

theorem witness_CmdWriteWhileBusyIsDropped :
    EventNext busyHosted (.hostWrite 0x004#32 4 (encode .nop)) [] ∧ busyHosted.status.busy = true := ⟨⟨rfl, rfl⟩, rfl⟩

theorem witness_NopOnlyCompletes :
    EventNext busyHosted (.hostWrite 0x004#32 4 (encode .nop)) [] ∧ busyHosted.status.busy = true := ⟨⟨rfl, rfl⟩, rfl⟩

/-- The readings just below and at 0x8000. -/
theorem witness_DecBes16WritesRes0 :
    0x7FFF = (block 0x02 .idle .uninit [] 0xFF7F).latch.larg0.toNat % 256 * 256 +
        (block 0x02 .idle .uninit [] 0xFF7F).latch.larg0.toNat / 256 % 256 ∧
      0x8000 = (block 0x02 .idle .uninit [] 0x80).latch.larg0.toNat % 256 * 256 +
        (block 0x02 .idle .uninit [] 0x80).latch.larg0.toNat / 256 % 256 := by decide

theorem witness_DecLes16WritesRes0 :
    0x7FFF = (block 0x04 .idle .uninit [] 0x7FFF).latch.larg0.toNat / 256 % 256 * 256 +
        (block 0x04 .idle .uninit [] 0x7FFF).latch.larg0.toNat % 256 ∧
      0x8000 = (block 0x04 .idle .uninit [] 0x8000).latch.larg0.toNat / 256 % 256 * 256 +
        (block 0x04 .idle .uninit [] 0x8000).latch.larg0.toNat % 256 := by decide

theorem witness_StatusLayoutAndClear :
    EventNext (hosted (.hostWrite 0x008#32 4 6)) (.hostWrite 0x008#32 4 6) [] := hosted_eventNext _

theorem witness_OtherHostWritesStoreOrAreIgnored (v : Word) :
    (∀ off ∈ [0x00C#32, 0x010#32], EventNext (hosted (.hostWrite off 4 v)) (.hostWrite off 4 v) []) ∧
      ∀ off ∈ [0x000#32, 0x014#32, 0x01C#32, 0x0AC#32, 0x0B0#32, 0x0FC#32],
        EventNext (hosted (.hostWrite off 4 v)) (.hostWrite off 4 v) [] ∧ off.toNat % 4 = 0 ∧ off.toNat ≤ 0xFC ∧
          off ∉ [0x004#32, 0x008#32, 0x00C#32, 0x010#32] := by
  constructor
  · intro off _; exact hosted_eventNext _
  · intro off h
    simp only [List.mem_cons, List.not_mem_nil, or_false] at h
    rcases h with rfl | rfl | rfl | rfl | rfl | rfl <;> exact ⟨hosted_eventNext _, by decide, by decide, by decide⟩

theorem witness_HostReadsReturnTheRegisterMap :
    ∀ off ∈ [0x000#32, 0x008#32, 0x01C#32, 0x0AC#32, 0x0B0#32, 0x0FC#32],
      EventNext (hosted (.hostRead off 4)) (.hostRead off 4) [] ∧ off.toNat % 4 = 0 ∧ off.toNat ≤ 0xFC ∧
        (hosted (.hostRead off 4)).status.magState ≠ .resultAvailable := by
  intro off h
  simp only [List.mem_cons, List.not_mem_nil, or_false] at h
  rcases h with rfl | rfl | rfl | rfl | rfl | rfl <;> exact ⟨hosted_eventNext _, by decide, by decide, by decide⟩

theorem witness_AccessesOfAnotherShapeAreRefused :
    EventNext (hosted (.hostRead 0x008#32 2)) (.hostRead 0x008#32 2) [] ∧ (2 ≠ 4 ∨ (0x008#32).toNat % 4 ≠ 0) ∧
      EventNext (hosted (.hostWrite 0x00D#32 4 1)) (.hostWrite 0x00D#32 4 1) [] ∧
      (4 ≠ 4 ∨ (0x00D#32).toNat % 4 ≠ 0) := ⟨hosted_eventNext _, by decide, hosted_eventNext _, by decide⟩

/-- A block of an instance whose read command also enables the temperature channel. -/
def illFormedBlock : State := { State.reset with premise := ⟨⟨true, true, true, false⟩, ⟨true, true, true, true⟩⟩ }

/-- 00_scope.md R13, 93_implementation_defined.md I15: nothing of it runs, not even a reset. -/
theorem test_refuses_ill_formed_instance :
    step illFormedBlock = .refused .illFormedInstance ∧
      step { illFormedBlock with agenda := [.reset] } = .refused .illFormedInstance := ⟨rfl, rfl⟩

/-- The premise that is true of the instance's bytes, whatever they are. -/
def trueBlock : State :=
  { State.reset with premise := ⟨Config.axisMaskOf Config.magCmdStart, Config.axisMaskOf Config.magCmdRead⟩ }

/-- An ill-formed instance, a premise that is true, one that is well-formed with a step of it, and the events of the other
stops. -/
theorem witness_OutsideContractEventsStop :
    illFormedBlock.premise.wf = false ∧
      PremiseTruthful trueBlock.premise ∧ (InstancePremise.wf ⟨AxisMask.xyz, AxisMask.xyz⟩ = true) ∧
      (∃ t, step State.reset = .next t) ∧
      EventNext (hosted (.hostRead 0x100#32 4)) (.hostRead 0x100#32 4) [] ∧ (0x100#32).toNat % 4 = 0 ∧
      0xFC < (0x100#32).toNat ∧ EventNext (hosted (.hostWrite 0xFFFFFFFC#32 4 1)) (.hostWrite 0xFFFFFFFC#32 4 1) [] ∧
      (0xFFFFFFFC#32).toNat % 4 = 0 ∧ 0xFC < (0xFFFFFFFC#32).toNat ∧
      EventNext { block 0 .resultAvailable .uninit [] with agenda := [.hostRead 0x008#32 4] } (.hostRead 0x008#32 4) [] ∧
      (block 0 .resultAvailable .uninit []).status.magState = .resultAvailable ∧
      EventNext { block 0 .idle .uninit [] with agenda := [.otherMaster] } .otherMaster [] ∧
      (block 0 .idle .uninit []).status.busy = true ∧ EventNext (hosted .otherMaster) .otherMaster [] ∧
      (hosted .otherMaster).status.busy = false :=
  ⟨by decide, ⟨rfl, rfl⟩, by decide, ⟨_, rfl⟩, hosted_eventNext _, by decide, by decide, hosted_eventNext _,
    by decide, by decide, ⟨rfl, rfl⟩, rfl, ⟨rfl, rfl⟩, rfl, hosted_eventNext _, rfl⟩

/-- Resets of a command with a completed transaction, of a NOP, of a failed state check and of an illegal word, each with an
answer waiting. -/
theorem witness_ResetRestoresEveryRegister :
    (∀ s ∈ [block 0x21 .idle .configured [.fails], block 0x00 .idle .uninit [.fails], block 0x22 .idle .uninit [.fails],
        block 0x06 .idle .uninit [.fails]], EventNext { s with agenda := [.reset] } .reset [] ∧ s.status.busy = true) ∧
      (block 0x21 .idle .configured [.fails]).latch.lcmd = encode .baroLoadCal ∧
      (block 0x00 .idle .uninit [.fails]).latch.lcmd = encode .nop ∧
      (block 0x22 .idle .uninit [.fails]).latch.lcmd = encode .baroRead ∧
      (block 0x22 .idle .uninit [.fails]).status.baroState ≠ .ready ∧
      ∀ i, (block 0x06 .idle .uninit [.fails]).latch.lcmd ≠ encode i := by
  refine ⟨fun s h => ?_, rfl, rfl, rfl, by decide, fun i => by cases i <;> decide⟩
  simp only [List.mem_cons, List.not_mem_nil, or_false] at h
  rcases h with rfl | rfl | rfl | rfl <;> exact ⟨⟨rfl, rfl⟩, rfl⟩

theorem witness_MagStartFollowsItsRule :
    (block 0x10 .idle .uninit [.responds []]).status.magState = .idle ∧
      (block 0x10 .idle .uninit [.responds []]).busIn = .responds [] :: [] ∧
      (block 0x10 .idle .uninit [.fails]).busIn = .fails :: [] ∧
      (block 0x10 .measuringRequested .uninit []).status.magState ≠ .idle := by decide

theorem witness_MagReadFollowsItsRule :
    (block 0x11 .measuringRequested .uninit [.responds magFrame.toList]).status.magState = .measuringRequested ∧
      (block 0x11 .measuringRequested .uninit [.responds magFrame.toList]).busIn = .responds magFrame.toList :: [] ∧
      (block 0x11 .measuringRequested .uninit [.fails]).busIn = .fails :: [] ∧
      ([0, 0] : List Byte).length ≠ 7 ∧ (block 0x11 .idle .uninit []).status.magState ≠ .measuringRequested := by decide

theorem witness_BaroConfigureFollowsItsRule :
    (block 0x20 .idle .uninit [.responds [], .responds []]).busIn = .responds [] :: .responds [] :: [] ∧
      (block 0x20 .idle .uninit [.fails]).busIn = .fails :: [] ∧
      (block 0x20 .idle .ready [.responds [], .fails]).busIn = .responds [] :: .fails :: [] := by decide

theorem witness_BaroLoadCalFollowsItsRule :
    (block 0x21 .idle .configured [.responds refBlock.toList]).status.baroState ≠ .uninit ∧
      (block 0x21 .idle .configured [.responds refBlock.toList]).busIn = .responds refBlock.toList :: [] ∧
      (block 0x21 .idle .ready [.fails]).busIn = .fails :: [] ∧ ([0] : List Byte).length ≠ 24 ∧
      (block 0x21 .idle .uninit []).status.baroState = .uninit := by decide

theorem witness_BaroReadFollowsItsRule :
    (ready 0x22 [.responds refData.toList]).status.baroState = .ready ∧
      (ready 0x22 [.responds refData.toList]).busIn = .responds refData.toList :: [] ∧
      (ready 0x22 [.fails]).busIn = .fails :: [] ∧ ([0] : List Byte).length ≠ 6 ∧
      (block 0x22 .idle .configured []).status.baroState ≠ .ready := by decide

theorem witness_BaroCompensateFollowsItsRule :
    (ready 0x23 []).status.baroState = .ready ∧ (block 0x23 .idle .uninit []).status.baroState ≠ .ready := by decide

/-- Waiting commands; an answer to come; and a reset of each of the five commands with its transactions answered. -/
theorem witness_UnansweredCommandsWaitAndResume :
    (block 0x10 .idle .ready []).busIn = [] ∧ (block 0x10 .idle .ready []).status.magState = .idle ∧
      (block 0x11 .measuringRequested .uninit []).status.magState = .measuringRequested ∧
      (block 0x21 .idle .configured []).status.baroState ≠ .uninit ∧
      (block 0x22 .idle .ready []).status.baroState = .ready ∧
      (block 0x20 .idle .uninit [.responds []]).busIn = [.responds []] ∧
      EventNext { block 0x20 .idle .uninit [.responds []] with agenda := [.busAnswer .fails] } (.busAnswer .fails) [] ∧
      EventNext { block 0x10 .idle .ready [.fails] with agenda := [.reset] } .reset [] ∧
      (block 0x10 .idle .ready [.fails]).status.busy = true ∧ (block 0x10 .idle .ready [.fails]).busIn = .fails :: [] ∧
      (block 0x10 .idle .ready []).latch.lcmd = encode .magStart ∧
      (block 0x11 .measuringRequested .uninit []).latch.lcmd = encode .magRead ∧
      (block 0x21 .idle .configured []).latch.lcmd = encode .baroLoadCal ∧
      (block 0x22 .idle .ready []).latch.lcmd = encode .baroRead ∧
      (block 0x20 .idle .uninit [.responds [], .fails]).latch.lcmd = encode .baroConfigure ∧
      (block 0x20 .idle .uninit [.responds [], .fails]).busIn = .responds [] :: [.fails] := by
  refine ⟨rfl, rfl, rfl, by decide, rfl, rfl, ⟨rfl, rfl⟩, ⟨rfl, rfl⟩, rfl, rfl, rfl, rfl, rfl, rfl, rfl, rfl⟩

/-- 70_reset_and_hazards.md R291, V-Z2: a reset records a completed transaction of the aborted command and leaves nothing of an
unanswered one. -/
theorem test_reset_aborts :
    nextValue (fun t => (t.status.word, t.history.length))
        (step { block 0x20 .idle .uninit [.responds []] with agenda := [.reset] }) = some (0, 1) ∧
      nextValue (fun t => (t.status.word, t.history.length))
        (step { block 0x21 .idle .configured [] with agenda := [.reset] }) = some (0, 0) := by decide

/-- Both ways of waiting: nothing answered, and the control write of a BARO_CONFIGURE alone answered. -/
theorem witness_EveryCommandCompletesOrWaits :
    (∃ t, exec .magStart (block 0x10 .idle .uninit []) = .next t ∧ Waiting .magStart (block 0x10 .idle .uninit []) t) ∧
      ∃ t, exec .baroConfigure (block 0x20 .idle .uninit [.responds []]) = .next t ∧
        Waiting .baroConfigure (block 0x20 .idle .uninit [.responds []]) t :=
  ⟨⟨_, rfl, rfl, rfl, .inl rfl⟩, _, rfl, rfl, rfl, .inr ⟨rfl, _, rfl⟩⟩

theorem witness_CompletionCodesAreThoseOfTheTable :
    ∃ t, (block 0x00 .idle .uninit []).status.busy = true ∧ exec .nop (block 0x00 .idle .uninit []) = .next t ∧
      t.status.busy = false ∧ ErrCode.invalidState ∈ possibleCodes .magStart ∧
      EngineNext (block 0x06 .idle .uninit []) ∧ ∀ i, (block 0x06 .idle .uninit []).latch.lcmd ≠ encode i :=
  ⟨_, rfl, rfl, rfl, by decide, ⟨rfl, rfl, .inl rfl⟩, fun i => by cases i <;> decide⟩

theorem witness_CommandsNeitherReadNorWriteArguments :
    ∃ t, exec .baroConfigure (block 0x20 .idle .uninit [.responds []]) = .next t := ⟨_, rfl⟩

/-- A failing completion, for FailuresArePrecise. -/
theorem witness_FailuresArePrecise :
    ∃ t, (block 0x11 .measuringRequested .uninit [.fails]).status.busy = true ∧
      exec .magRead (block 0x11 .measuringRequested .uninit [.fails]) = .next t ∧ t.status.busy = false ∧
      t.status.err ≠ .ok := ⟨_, rfl, rfl, rfl, by decide⟩

/-- A failed state check, for StateCheckFailuresMakeNoTraffic. -/
theorem witness_StateCheckFailuresMakeNoTraffic :
    ∃ t, (block 0x22 .idle .uninit []).status.busy = true ∧ exec .baroRead (block 0x22 .idle .uninit []) = .next t ∧
      t.status.busy = false ∧ (t.status.err = .invalidState ∨ t.status.err = .notInitialized) :=
  ⟨_, rfl, rfl, rfl, .inr rfl⟩

/-- Steps with and without bus traffic, for BusTrafficIsOnlyTheListedTransactions. -/
theorem witness_BusTrafficIsOnlyTheListedTransactions :
    (∃ t, step (block 0x20 .idle .uninit [.responds [], .fails]) = .next t ∧ t.history.length = 2) ∧
      ∃ t, step State.reset = .next t ∧ t.history = [] := ⟨⟨_, rfl, rfl⟩, _, rfl, rfl⟩

theorem witness_BusyChangesOnlyAtAcceptanceAndCompletion :
    (∃ t, step (hosted (.hostWrite 0x004#32 4 0x10)) = .next t ∧ t.status.busy = true) ∧
      ∃ t, step (block 0x00 .idle .uninit []) = .next t ∧ t.status.busy = false := ⟨⟨_, rfl, rfl⟩, _, rfl, rfl⟩

theorem witness_StickyBitsAreClearedOnlyByTheHost :
    (∃ t, step { hosted (.hostWrite 0x008#32 4 6) with
        status := { Status.reset with done := true, cmdOvr := true } } = .next t ∧
        t.status.done = false ∧ t.status.cmdOvr = false) ∧
      (∃ t, step (block 0x00 .idle .uninit []) = .next t ∧ t.status.done = true) ∧
      ∃ t, step { block 0x00 .idle .uninit [] with agenda := [.hostWrite 0x004#32 4 0] } = .next t ∧
        t.status.cmdOvr = true := ⟨⟨_, rfl, rfl, rfl⟩, ⟨_, rfl, rfl⟩, _, rfl, rfl⟩

theorem witness_OnlyLoadCalAndResetWriteCalibration :
    ∃ t, step (block 0x21 .idle .configured [.responds refBlock.toList]) = .next t ∧ t.cal ≠ State.reset.cal :=
  ⟨_, rfl, by decide⟩

theorem witness_OnlyCompensationsWriteBarometerResults :
    ∃ t, step (ready 0x23 [] 0x0007EED0 0x000655AC) = .next t ∧ t.baro ≠ (ready 0x23 []).baro := by
  refine ⟨_, rfl, fun h => ?_⟩
  have h' := congrArg BaroRegs.adcT h
  exact absurd h' (by decide +kernel)

theorem witness_OnlyMagReadAndDecodersWriteTheirResults :
    (∃ t, step (block 0x11 .measuringRequested .uninit [.responds magFrame.toList]) = .next t ∧
        t.mag ≠ State.reset.mag) ∧
      ∃ t, step (block 0x01 .idle .uninit [] 0x3412) = .next t ∧ t.res0 ≠ State.reset.res0 :=
  ⟨⟨_, rfl, by decide +kernel⟩, _, rfl, by decide⟩

theorem witness_OnlyTheirCommandsMoveTheSequencers :
    (∃ t, step (block 0x10 .idle .uninit [.responds []]) = .next t ∧ t.status.magState ≠ .idle) ∧
      ∃ t, step (block 0x20 .idle .uninit [.responds [], .responds []]) = .next t ∧ t.status.baroState ≠ .uninit :=
  ⟨⟨_, rfl, by decide⟩, _, rfl, by decide⟩

/-- A state with an open measurement meets SequencerSound, and its next step completes the MAG_READ. -/
theorem witness_StepKeepsSequencerSound :
    SequencerSound (block 0x11 .measuringRequested .uninit [.responds magFrame.toList]) ∧
      ∃ t, step (block 0x11 .measuringRequested .uninit [.responds magFrame.toList]) = .next t ∧ t.status.magRv = true :=
  ⟨⟨by decide, fun _ => rfl⟩, _, rfl, rfl⟩

/-- READY with the reference calibration meets RegisterFormats, and its next step is a next state. -/
theorem witness_StepKeepsRegisterFormats :
    RegisterFormats (ready 0x23 [] 0x0007EED0 0x000655AC) ∧ ∃ t, step (ready 0x23 [] 0x0007EED0 0x000655AC) = .next t := by
  refine ⟨?_, _, rfl⟩
  constructor <;> first
    | decide
    | (intro i h1 h2; interval_cases i <;> decide)

/-- READY with the reference calibration and its block in the history. -/
def genuineReady : State :=
  { ready 0x23 [] 0x0007EED0 0x000655AC with
    history := [.r Config.baroBusAddr Config.baroRegCalib calLen (.data refBlock.toList)] }

theorem witness_StepKeepsReadingsGenuine : ReadingsGenuine genuineReady ∧ ∃ t, step genuineReady = .next t := by
  refine ⟨⟨.inl ⟨rfl, rfl⟩, fun _ => ⟨refBlock, List.mem_singleton.2 rfl, ?_⟩, fun h => ?_⟩, _, rfl⟩
  · decide
  · cases h

theorem witness_StepKeepsFlagsDescribeResults :
    FlagsDescribeResults (ready 0x23 []) ∧ ∃ t, step (ready 0x23 []) = .next t :=
  ⟨⟨by decide, fun h => (by cases h), fun h => (by cases h)⟩, _, rfl⟩

theorem witness_SignedFieldsAreBijections : (-32768 : Int) ≤ -32768 ∧ (-32768 : Int) ≤ 32767 ∧ (32767 : Int) ≤ 32767 := by decide

theorem witness_TripletIsMonotoneAndBounded : (0 : Nat) = 0 * 65536 + 0 * 256 + 0 ∧ 16777215 = 255 * 65536 + 255 * 256 + 255 := by decide

theorem witness_FramesDecodeAndCalibrationReadsBack :
    refCal.InRange ∧ { refCal with p1 := 0 }.InRange ∧
      Calib.InRange ⟨65535, -32768, 32767, 65535, -32768, 32767, -32768, 32767, -32768, 32767, -32768, 32767⟩ := by
  refine ⟨?_, ?_, ?_⟩ <;> (unfold Calib.InRange; decide)

theorem witness_IntegerConversionIsExact :
    (9007199254740991 : Int).natAbs < 2 ^ 53 ∧ (-9007199254740991 : Int).natAbs < 2 ^ 53 := by decide

/-- Operands of every clause of ArithmeticRoundsOnceToNearestEven, the largest finite value among them. -/
theorem witness_ArithmeticRoundsOnceToNearestEven :
    isFinite fOne = true ∧ isFinite 0x7FEFFFFFFFFFFFFF#64 = true ∧
      (toUnits fOne + toUnits fOne).natAbs < overflowUnits ∧
      (toUnits 0x7FEFFFFFFFFFFFFF#64 - toUnits fZero).natAbs < overflowUnits ∧
      (toUnits 0x7FEFFFFFFFFFFFFF#64 * toUnits fOne).natAbs < overflowUnits * 2 ^ 1074 ∧
      toUnits 0x0000000000000001#64 ≠ 0 ∧
      (toUnits fOne * 2 ^ 1074).natAbs < overflowUnits * (toUnits fOne).natAbs := by decide +kernel

theorem witness_SquareRootIsCorrectlyRounded :
    isFinite fZero = true ∧ fZero.msb = false ∧ isFinite 0x7FEFFFFFFFFFFFFF#64 = true ∧
      (0x7FEFFFFFFFFFFFFF#64 : F64).msb = false := by decide

theorem witness_MagnitudeIsBoundedAndSymmetric : s16Range (-32768) ∧ s16Range 32767 ∧ s16Range 0 := by decide

/-- A conforming POW_F64. -/
def stepPow (x _ : F64) : F64 := if x = fZero then fZero else fOne

theorem witness_PowConforming : PowConforming stepPow := by
  refine ⟨by decide, fun y => by simp [stepPow, fOne, fZero], fun x y h => ?_⟩
  have hx : x ≠ fZero := by rintro rfl; revert h; decide
  rw [stepPow, if_neg hx]; decide

theorem witness_TemperaturePathIsTheFormula :
    ∃ at' t1 td tFine : F64, at' = f64 (519888#20).toNat ∧ t1 = f64 refCal.t1 ∧
      td = fSub (fDiv at' 0x4100000000000000#64) (fDiv t1 0x40C0000000000000#64) ∧
      tFine = fAdd (fMul (fSub (fDiv at' 0x40D0000000000000#64) (fDiv t1 0x4090000000000000#64)) (f64 refCal.t2))
        (fMul (fMul td td) (f64 refCal.t3)) := ⟨_, _, _, _, rfl, rfl, rfl, rfl⟩

/-- The reference calibration with P1 = 0 (V-C5). -/
def zeroP1Cal : Calib := { refCal with p1 := 0 }

/-- The intermediate values are definitions of one another; q3 is zero for P1 = 0 and not for the reference calibration. -/
theorem witness_PressurePathIsTheFormula :
    (let q1 := fSub (fDiv (compensateWith .squareFirst stepPow 519888 415148 zeroP1Cal).tFine 0x4000000000000000#64)
        0x40EF400000000000#64
      let a := fDiv (fMul (f64 zeroP1Cal.p3) (fMul q1 q1)) 0x4120000000000000#64
      let q2 := fDiv (fAdd a (fMul (f64 zeroP1Cal.p2) q1)) 0x4120000000000000#64
      let q3 := fMul (fAdd 0x3FF0000000000000#64 (fDiv q2 0x40E0000000000000#64)) (f64 zeroP1Cal.p1)
      fEq q3 fZero && isFinite q3) = true ∧
    (let q1 := fSub (fDiv (compensateWith .squareFirst stepPow 519888 415148 refCal).tFine 0x4000000000000000#64)
        0x40EF400000000000#64
      let a := fDiv (fMul (f64 refCal.p3) (fMul q1 q1)) 0x4120000000000000#64
      let q2 := fDiv (fAdd a (fMul (f64 refCal.p2) q1)) 0x4120000000000000#64
      let q3 := fMul (fAdd 0x3FF0000000000000#64 (fDiv q2 0x40E0000000000000#64)) (f64 refCal.p1)
      !fEq q3 fZero && isFinite q3) = true := by
  decide +kernel

/-- A pressure that is positive, one that is negative and one that is +0.0, all finite; and operands of the comparisons. -/
theorem witness_AltitudePathIsTheFormula :
    isFinite fZero = true ∧ isFinite 0x7FEFFFFFFFFFFFFF#64 = true ∧ isNaN 0x7FF8000000000000#64 = true ∧
      fLt (compensateWith .squareFirst stepPow 519888 415148 refCal).pressure 0x0000000000000000#64 = false ∧
      fLt (compensateWith .squareFirst stepPow 519888 1048575 refCal).pressure 0x0000000000000000#64 = true ∧
      isFinite (compensateWith .squareFirst stepPow 519888 1048575 refCal).pressure = true ∧
      (compensateWith .squareFirst stepPow 519888 415148 zeroP1Cal).pressure = 0x0000000000000000#64 := by decide +kernel

/-- The altitude formula leaves the format for a power that 44_compensation.md R247 allows (log entry 11). -/
theorem test_altitude_overflow :
    isFinite (altitudeFormula 0x7EF7A763F09DA17F#64) = true ∧ isFinite (altitudeFormula 0x7EF7A763F09DA180#64) = false ∧
      isFinitePos 0x7EF7A763F09DA180#64 = true := by decide +kernel

theorem witness_ReferenceExampleGivesTheseBits :
    ∃ res, res = compensateWith .leftToRight stepPow 519888 415148 refCal := ⟨_, rfl⟩

/-- A calibration in range, a conforming power that is within the bound at the argument that the engine passes, and a pressure
that is not -0.0. -/
theorem witness_EngineOutputsAreFinite :
    refCal.InRange ∧ PowConforming stepPow ∧
      ∃ res p, res = compensateWith .squareFirst stepPow 519888 415148 refCal ∧
        p = stepPow (fDiv res.pressure 0x408FAA0000000000#64) altExponent ∧ p.toNat ≤ 0x7EF7A763F09DA17F ∧
        res.pressure ≠ 0x8000000000000000#64 :=
  ⟨by unfold Calib.InRange; decide, witness_PowConforming, _, _, rfl, rfl, by decide +kernel, by decide +kernel⟩

/-- A conforming power with a pressure that is not negative. -/
theorem witness_AltitudeFormulaIsFiniteForEveryConformingPower :
    PowConforming stepPow ∧ refCal.InRange ∧
      fLt (compensateWith .squareFirst stepPow 519888 415148 refCal).pressure 0x0000000000000000#64 = false :=
  ⟨witness_PowConforming, by unfold Calib.InRange; decide, by decide +kernel⟩

/-- Both sides of the equivalence, with a conforming power and calibrations in range. -/
theorem witness_DegeneratePathIsExactlyItsTwoCases :
    PowConforming stepPow ∧ zeroP1Cal.InRange ∧ refCal.InRange ∧
      (compensateWith .squareFirst stepPow 519888 415148 zeroP1Cal).degenerate = true ∧
      (compensateWith .squareFirst stepPow 519888 415148 refCal).degenerate = false :=
  ⟨witness_PowConforming, by unfold Calib.InRange; decide, by unfold Calib.InRange; decide, by decide +kernel,
    by decide +kernel⟩

theorem witness_ReadAndCompensateAgree :
    (ready 0x22 [.responds refData.toList]).status.baroState = .ready ∧
      (ready 0x23 [] 0xFFF7EED0 0xABC655AC).status.baroState = .ready ∧
      (ready 0x22 [.responds refData.toList]).cal = (ready 0x23 [] 0xFFF7EED0 0xABC655AC).cal ∧
      (ready 0x22 [.responds refData.toList]).busIn = .responds refData.toList :: [] ∧
      (0xFFF7EED0#32).toNat % 2 ^ 20 = (dataDecode refData).adcT.toNat ∧
      (0xABC655AC#32).toNat % 2 ^ 20 = (dataDecode refData).adcP.toNat ∧
      (∃ t, exec .baroRead (ready 0x22 [.responds refData.toList]) = .next t) ∧
      ∃ t, exec .baroCompensate (ready 0x23 [] 0xFFF7EED0 0xABC655AC) = .next t :=
  ⟨rfl, rfl, rfl, rfl, by decide, by decide, ⟨_, rfl⟩, _, rfl⟩

end Sys2Proof.Machine.Tests
end

/-! The statements on the register layouts and on who writes the calibration (10_state.md R33, R48, R63), with the
rules on concatenations, host writes and calibration writes that they rest on. -/

namespace Sys2Proof.Machine

/-! ### Register words as sums of their fields -/

/-- A concatenation puts its left field above the `n` bits of its right one. -/
theorem toNat_append_eq_add {m n : Nat} (x : BitVec m) (y : BitVec n) :
    (x ++ y).toNat = x.toNat * 2 ^ n + y.toNat := by
  rw [BitVec.toNat_append, ← Nat.shiftLeft_add_eq_or_of_lt y.isLt, Nat.shiftLeft_eq]

/-- A field of a word is a digit of its value. -/
theorem extractLsb'_toNat_eq_digit {w : Nat} (x : BitVec w) (i n : Nat) :
    (x.extractLsb' i n).toNat = x.toNat / 2 ^ i % 2 ^ n := by
  rw [BitVec.extractLsb'_toNat, Nat.shiftRight_eq_div_pow]

/-- A bit of a word is a binary digit of its value. -/
theorem getLsbD_eq_digit {w : Nat} (x : BitVec w) (i : Nat) : x.getLsbD i = decide (x.toNat / 2 ^ i % 2 = 1) :=
  Nat.testBit_eq_decide_div_mod_eq

/-- STATUS is the sum of its fields at the bits of 10_state.md R33. -/
theorem Status_word_toNat (st : Status) :
    st.word.toNat =
      st.busy.toNat + 2 * st.done.toNat + 4 * st.cmdOvr.toNat
        + 16 * st.err.code.toNat + 256 * st.magState.code.toNat + 1024 * st.baroState.code.toNat
        + 4096 * st.magRv.toNat + 8192 * st.baroRv.toNat + 16384 * st.degen.toNat + 32768 * st.altInv.toNat := by
  simp only [Status.word, toNat_append_eq_add, BitVec.toNat_ofBool, BitVec.toNat_ofNat]
  omega

/-- CFG_INFO is the sum of its fields at the bits of 10_state.md R48. -/
theorem cfgInfoValue_toNat :
    cfgInfoValue.toNat =
      Config.magBusAddr.toNat + 2 ^ 8 * Config.baroBusAddr.toNat + 2 ^ 16 * Config.magCmdStart.toNat
        + 2 ^ 24 * Config.magCmdRead.toNat := by
  unfold cfgInfoValue
  generalize Config.magBusAddr = mag, Config.baroBusAddr = baro, Config.magCmdStart = start, Config.magCmdRead = read
  simp only [toNat_append_eq_add, BitVec.toNat_ofNat]
  omega

/-- Settles O13: each field is a digit of CFG_INFO's value as a sum. -/
theorem cfgInfoHoldsTheInstanceParameters : Obligations.CfgInfoHoldsTheInstanceParameters := by
  have hsum := cfgInfoValue_toNat
  have hMag := Config.magBusAddr.isLt
  have hBaro := Config.baroBusAddr.isLt
  have hStart := Config.magCmdStart.isLt
  have hRead := Config.magCmdRead.isLt
  refine ⟨?_, ?_, ?_, ?_, ?_, ?_, fun _ => rfl⟩
  case refine_2 | refine_4 => rw [getLsbD_eq_digit, decide_eq_false_iff_not]; omega
  all_goals apply BitVec.eq_of_toNat_eq; rw [extractLsb'_toNat_eq_digit]; omega

/-! ### Host writes -/

/-- The step of a well-formed block performs the next event. -/
theorem step_of_eventNext {s : State} {e : Event} {rest : List Event} (h : EventNext s e rest) :
    step s = perform e { s with agenda := rest } := by
  obtain ⟨hwf, hag⟩ := h
  rw [step_of_wf hwf, takeTurn, hag]

/-- An aligned 32-bit write in the window does what the register at its offset does. -/
theorem step_of_hostWriteNext {s : State} {off v : Word} {rest : List Event}
    (h : EventNext s (.hostWrite off 4 v) rest) (hshape : accessShapeOk off 4 = true)
    (hwin : accessInWindow off = true) : step s = .next (writeOffset off v { s with agenda := rest }) := by
  rw [step_of_eventNext h, perform, hostWrite, guardAccess, hshape, hwin]
  rfl

/-- A bit cleared by writing 1, in the two forms of the statements. -/
theorem and_not_eq_ite (b c : Bool) : (b && !c) = if c then false else b := by
  cases c <;> simp

/-- A write to STATUS clears by its bits and nothing else. -/
theorem writeOffset_status (v : Word) (s : State) :
    writeOffset 0x008#32 v s = { s with status := s.status.writeOneToClear v } := rfl

theorem writeOneToClear_eq (v : Word) (st : Status) :
    st.writeOneToClear v =
      { st with
        done := if v.getLsbD 1 then false else st.done
        cmdOvr := if v.getLsbD 2 then false else st.cmdOvr } := by
  rw [Status.writeOneToClear, and_not_eq_ite, and_not_eq_ite]

/-- Settles O8, with STATUS as a sum and the write as the write-1-to-clear of its register. -/
theorem statusLayoutAndClear : Obligations.StatusLayoutAndClear := by
  refine ⟨Status_word_toNat, fun s v rest h => ?_, by decide⟩
  rw [step_of_hostWriteNext h (by decide) (by decide), writeOffset_status, writeOneToClear_eq]

/-! ### Who writes the calibration -/

theorem decodeOpcode_ok {opc : BitVec 8} {i : Instr} (h : decodeOpcode opc = .ok i) : opc = opcodeOf i := by
  unfold decodeOpcode at h
  split at h <;> cases h <;> rfl

/-- The decoder accepts no word but the encoding of the command it answers (30_encoding.md R112). -/
theorem eq_encode_of_decode_ok {w : Word} {i : Instr} (h : decode w = .ok i) : w = encode i := by
  unfold decode at h
  split at h
  · rename_i hrsv
    have hdigit : w.toNat / 2 ^ 8 % 2 ^ 24 = 0 :=
      (extractLsb'_toNat_eq_digit w 8 24).symm.trans (congrArg BitVec.toNat hrsv)
    have hw := w.isLt
    apply BitVec.eq_of_toNat_eq
    rw [encode, ← decodeOpcode_ok h, BitVec.toNat_setWidth, opcField, extractLsb'_toNat_eq_digit]
    omega
  · cases h

@[simp] theorem writeOffset_cal (off v : Word) (s : State) : (writeOffset off v s).cal = s.cal := by
  unfold writeOffset writeCmd
  repeat' split
  all_goals rfl

/-- A command that changes the calibration is BARO_LOAD_CAL on its successful path, with the block it read. -/
theorem exec_writes_cal {i : Instr} {s t : State} (h : exec i s = .next t) (hc : t.cal ≠ s.cal) :
    i = .baroLoadCal ∧ ∃ rest b, t = complete .ok (setBaroState .ready (writeCal (calParse b)
      (afterTransaction rest (.r Config.baroBusAddr Config.baroRegCalib calLen (.data b.toList)) s))) := by
  cases i with
  | nop | decBeu16 | decBes16 | decLeu16 | decLes16 | decU20 => cases h; exact absurd rfl hc
  | magStart =>
    rcases execMagStart_cases h with ⟨-, rfl⟩ | ⟨-, -, rfl⟩ | ⟨rest, -, rfl⟩ | ⟨rest, -, rfl⟩ <;> exact absurd rfl hc
  | magRead =>
    rcases execMagRead_cases h with ⟨-, rfl⟩ | ⟨-, -, rfl⟩ | ⟨rest, -, rfl⟩ | ⟨rest, b, -, rfl⟩ <;> exact absurd rfl hc
  | baroConfigure =>
    rcases execBaroConfigure_cases h with ⟨-, rfl⟩ | ⟨rest, rfl⟩ | ⟨rest, rest', rfl⟩ | ⟨rest, rest', rfl⟩ <;>
      exact absurd rfl hc
  | baroLoadCal =>
    rcases execBaroLoadCal_cases h with ⟨-, rfl⟩ | ⟨-, -, rfl⟩ | ⟨rest, -, rfl⟩ | ⟨rest, b, -, rfl⟩
    case inr.inr.inr => exact ⟨rfl, rest, b, rfl⟩
    all_goals exact absurd rfl hc
  | baroRead =>
    rcases execBaroRead_cases h with ⟨-, rfl⟩ | ⟨-, -, rfl⟩ | ⟨rest, -, rfl⟩ | ⟨rest, b, -, rfl⟩ <;>
      exact absurd (by simp) hc
  | baroCompensate =>
    rcases execBaroCompensate_cases h with ⟨-, rfl⟩ | ⟨-, rfl⟩ <;> exact absurd (by simp) hc

/-- Settles O36, by what a turn can do: only a reset and the engine's run of a command reach the calibration, and of the
commands only BARO_LOAD_CAL. -/
theorem onlyLoadCalAndResetWriteCalibration : Obligations.OnlyLoadCalAndResetWriteCalibration := by
  intro s t hstep hc
  obtain ⟨hwf, hturn⟩ := step_next hstep
  rcases takeTurn_cases hturn with ⟨hag, heng⟩ | ⟨off, bytes, rest, r, -, -, rfl⟩ | ⟨off, bytes, v, rest, -, -, rfl⟩ |
    ⟨-, rfl⟩ | ⟨a, rest, -, rfl⟩ | ⟨rest, hag, -⟩
  case inr.inr.inr.inr.inr => exact .inl ⟨rest, hag⟩
  case inl =>
    right
    rcases engineTurn_cases heng with ⟨-, rfl⟩ | ⟨hbusy, i, hdec, hexec⟩ | ⟨-, -, rfl⟩
    · exact absurd rfl hc
    · obtain ⟨rfl, rest, b, rfl⟩ := exec_writes_cal hexec hc
      exact ⟨⟨hwf, hbusy, hag⟩, eq_encode_of_decode_ok hdec, rfl, rfl, b, by simp [calBlockRead], rfl⟩
    · exact absurd rfl hc
  all_goals exact absurd (by simp) hc

end Sys2Proof.Machine

/-! The statement on host accesses of another width or alignment (20_memory.md R81). -/

namespace Sys2Proof.Machine

/-- The accesses of the block's contract are the aligned 32-bit ones (20_memory.md R81). -/
theorem accessShapeOk_iff {off : Word} {bytes : Nat} :
    accessShapeOk off bytes = true ↔ bytes = 4 ∧ off.toNat % 4 = 0 := by
  rw [accessShapeOk, Bool.and_eq_true, beq_iff_eq, beq_iff_eq]

/-- The guard refuses an access of another shape before it looks at the window or at what the access would do. -/
theorem guardAccess_of_shape_ne {off : Word} {bytes : Nat} (h : bytes ≠ 4 ∨ off.toNat % 4 ≠ 0) (k : StepResult) :
    guardAccess off bytes k = .refused .hostAccessShape := by
  have hshape : accessShapeOk off bytes = false := by
    rw [← Bool.not_eq_true, accessShapeOk_iff]
    omega
  rw [guardAccess, hshape]
  rfl

/-- Settles O11: a host read and a host write both pass the guard first. -/
theorem accessesOfAnotherShapeAreRefused : Obligations.AccessesOfAnotherShapeAreRefused := by
  intro s off v bytes rest hshape
  constructor
  case left =>
    intro hread
    rw [step_of_eventNext hread, perform, hostRead, guardAccess_of_shape_ne hshape]
  case right =>
    intro hwrite
    rw [step_of_eventNext hwrite, perform, hostWrite, guardAccess_of_shape_ne hshape]

end Sys2Proof.Machine

/-! The statement on the legal command words (30_encoding.md R112): decoding and encoding are inverse, and a word is read as
its two fields, RSV and OPC. -/

namespace Sys2Proof.Machine

open Laws

theorem encodedOpcode : ∀ i : Instr, EncodedOpcode.Statement i
  | .nop => EncodedOpcode.nop
  | .decBeu16 => EncodedOpcode.decBeu16
  | .decBes16 => EncodedOpcode.decBes16
  | .decLeu16 => EncodedOpcode.decLeu16
  | .decLes16 => EncodedOpcode.decLes16
  | .decU20 => EncodedOpcode.decU20
  | .magStart => EncodedOpcode.magStart
  | .magRead => EncodedOpcode.magRead
  | .baroConfigure => EncodedOpcode.baroConfigure
  | .baroLoadCal => EncodedOpcode.baroLoadCal
  | .baroRead => EncodedOpcode.baroRead
  | .baroCompensate => EncodedOpcode.baroCompensate

theorem decode_encode (i : Instr) : decode (encode i) = .ok i := by
  obtain ⟨-, -, -, hdecode, -⟩ := encodedOpcode i
  exact hdecode

theorem decode_eq_ok_iff {w : Word} {i : Instr} : decode w = .ok i ↔ w = encode i :=
  ⟨eq_encode_of_decode_ok, fun h => h ▸ decode_encode i⟩

/-- A word is a command's encoding when RSV is 0 and OPC is the command's opcode, both as digits of the word's value. -/
theorem eq_encode_iff {w : Word} {i : Instr} :
    w = encode i ↔ w.toNat / 256 = 0 ∧ w.toNat % 256 = (opcodeOf i).toNat := by
  have hencode : (encode i).toNat = (opcodeOf i).toNat := zext32_toNat (by decide) (opcodeOf i)
  have hopc := (opcodeOf i).isLt
  rw [← BitVec.toNat_inj, hencode]
  omega

/-- The commands in the order of the opcode table. -/
def allCommands : List Instr :=
  [.nop, .decBeu16, .decBes16, .decLeu16, .decLes16, .decU20, .magStart, .magRead, .baroConfigure, .baroLoadCal, .baroRead,
    .baroCompensate]

theorem mem_allCommands (i : Instr) : i ∈ allCommands := by
  cases i <;> decide

/-- The opcodes of the table are those of the commands, no more and no fewer. -/
theorem mem_opcodes_iff {n : Nat} :
    n ∈ [0x00, 0x01, 0x02, 0x03, 0x04, 0x05, 0x10, 0x11, 0x20, 0x21, 0x22, 0x23] ↔ ∃ i, n = (opcodeOf i).toNat := by
  change n ∈ allCommands.map (fun i => (opcodeOf i).toNat) ↔ _
  simp only [List.mem_map, mem_allCommands, true_and, eq_comm]

/-- Settles O1: a legal word is the encoding of some command, and an encoding is told by its two fields. -/
theorem legalWordsAreExactlyTheTwelve : Obligations.LegalWordsAreExactlyTheTwelve := by
  refine ⟨fun w i => decode_eq_ok_iff, fun w => ?_, by decide⟩
  simp only [decode_eq_ok_iff, eq_encode_iff, mem_opcodes_iff, exists_and_left]

end Sys2Proof.Machine

/-! The statements on CMD writes and on NOP (40_control.md R140, R141, R150). -/

namespace Sys2Proof.Machine

/-! ### CMD writes -/

theorem writeOffset_cmd (w : Word) (s : State) : writeOffset 0x004#32 w s = writeCmd w s := rfl

theorem writeCmd_of_idle {s : State} (h : s.status.busy = false) (w : Word) : writeCmd w s = acceptCommand w s := by
  rw [writeCmd, h]
  rfl

theorem writeCmd_of_busy {s : State} (h : s.status.busy = true) (w : Word) : writeCmd w s = dropCommand s := by
  rw [writeCmd, h]
  rfl

/-- A CMD write always lies in the block's contract, so its step is what the command register does with the word. -/
theorem step_of_cmdWriteNext {s : State} {w : Word} {rest : List Event}
    (h : EventNext s (.hostWrite 0x004#32 4 w) rest) : step s = .next (writeCmd w { s with agenda := rest }) := by
  rw [step_of_hostWriteNext h (by decide) (by decide), writeOffset_cmd]

/-- Settles O6: with BUSY = 0 the command register accepts the word. -/
theorem cmdWriteIsAccepted : Obligations.CmdWriteIsAccepted := by
  intro s w rest hnext hidle
  rw [step_of_cmdWriteNext hnext, writeCmd_of_idle (s := { s with agenda := rest }) hidle, acceptCommand]

/-- Settles O7: with BUSY = 1 the command register drops the word. -/
theorem cmdWriteWhileBusyIsDropped : Obligations.CmdWriteWhileBusyIsDropped := by
  intro s w rest hnext hbusy
  rw [step_of_cmdWriteNext hnext, writeCmd_of_busy (s := { s with agenda := rest }) hbusy, dropCommand]

/-! ### NOP -/

theorem encode_nop : encode .nop = 0x00000000#32 := by decide

theorem exec_nop (s : State) : exec .nop s = .next (complete .ok s) := rfl

/-- Settles O15: NOP is nothing but its completion record, and its word is dropped as any other while BUSY = 1. -/
theorem nopOnlyCompletes : Obligations.NopOnlyCompletes := by
  refine ⟨encode_nop, ?decoded, ?completes, ?dropped⟩
  case decoded => exact decode_eq_ok_iff.mpr encode_nop.symm
  case completes =>
    intro s
    rw [exec_nop, complete_eq_afterCompletion]
  case dropped => exact fun s rest => cmdWriteWhileBusyIsDropped s (encode .nop) rest

end Sys2Proof.Machine

/-! The statements on the field decoders and on the field functions they apply (41_codec.md R165 to R171). -/

namespace Sys2Proof.Machine

/-! ### Byte lanes and the fields read from them -/

theorem laneByte_zero_toNat (l : Word) : (laneByte 0 l).toNat = l.toNat % 256 := by
  rw [laneByte_toNat, Nat.mul_zero, pow_zero, Nat.div_one]

theorem laneByte_one_toNat (l : Word) : (laneByte 1 l).toNat = l.toNat / 256 % 256 :=
  laneByte_toNat 1 l

theorem laneByte_two_toNat (l : Word) : (laneByte 2 l).toNat = l.toNat / 65536 % 256 :=
  laneByte_toNat 2 l

/-- The big-endian field of the two low lanes, as arithmetic on the operand. -/
theorem beUint16_lanes_toNat (l : Word) :
    (beUint16 (laneByte 0 l) (laneByte 1 l)).toNat = l.toNat % 256 * 256 + l.toNat / 256 % 256 := by
  rw [beUint16_toNat, laneByte_zero_toNat, laneByte_one_toNat]

/-- The little-endian field of the two low lanes, as arithmetic on the operand. -/
theorem leUint16_lanes_toNat (l : Word) :
    (leUint16 (laneByte 0 l) (laneByte 1 l)).toNat = l.toNat / 256 % 256 * 256 + l.toNat % 256 := by
  rw [leUint16_toNat, laneByte_zero_toNat, laneByte_one_toNat]

/-- The 20-bit field of the three low lanes, as arithmetic on the operand. -/
theorem u20FromTriplet_lanes_toNat (l : Word) :
    (u20FromTriplet (laneByte 0 l) (laneByte 1 l) (laneByte 2 l)).toNat =
      l.toNat % 256 * 4096 + l.toNat / 256 % 256 * 16 + l.toNat / 65536 % 256 / 16 := by
  rw [u20FromTriplet_toNat, laneByte_zero_toNat, laneByte_one_toNat, laneByte_two_toNat]

/-! ### The field-decoder commands -/

theorem exec_decBeu16 (s : State) : exec .decBeu16 s = execDecBeu16 s := rfl
theorem exec_decBes16 (s : State) : exec .decBes16 s = execDecBes16 s := rfl
theorem exec_decLeu16 (s : State) : exec .decLeu16 s = execDecLeu16 s := rfl
theorem exec_decLes16 (s : State) : exec .decLes16 s = execDecLes16 s := rfl
theorem exec_decU20 (s : State) : exec .decU20 s = execDecU20 s := rfl

/-- A field decoder changes RES0 and what completion changes, nothing else. -/
theorem decodeField_eq_afterCompletion (v : Word) (s : State) :
    decodeField v s = .next (afterCompletion .ok { s with res0 := v }) := by
  rw [decodeField, complete_eq_afterCompletion, writeRes0]

/-- Decoding an unsigned field stores its number. -/
theorem decodeField_zext32 {n u : Nat} {v : BitVec n} (hv : v.toNat = u) (s : State) :
    decodeField (zext32 v) s = .next (afterCompletion .ok { s with res0 := BitVec.ofNat 32 u }) := by
  rw [decodeField_eq_afterCompletion, zext32, ← hv, BitVec.ofNat_toNat]

/-- Decoding a signed field stores its two's-complement reading. -/
theorem decodeField_sext32_tc16 {u : Nat} {v : BitVec 16} (hv : v.toNat = u) (s : State) :
    decodeField (sext32 (tc16 v)) s =
      .next (afterCompletion .ok { s with res0 := BitVec.ofInt 32 (if 0x8000 ≤ u then (u : Int) - 0x10000 else u) }) := by
  rw [decodeField_eq_afterCompletion, sext32, tc16, hv]

/-- Settles O16: an unsigned decode of the big-endian field. -/
theorem decBeu16WritesRes0 : Obligations.DecBeu16WritesRes0 := by
  refine ⟨by decide, fun s => ?_⟩
  rw [exec_decBeu16, execDecBeu16, decodeField_zext32 (beUint16_lanes_toNat _)]

/-- Settles O17: a signed decode of the big-endian field. -/
theorem decBes16WritesRes0 : Obligations.DecBes16WritesRes0 := by
  refine ⟨by decide, fun s u hu => ?_⟩
  rw [exec_decBes16, execDecBes16, beInt16, decodeField_sext32_tc16 ((beUint16_lanes_toNat _).trans hu.symm)]

/-- Settles O18: an unsigned decode of the little-endian field. -/
theorem decLeu16WritesRes0 : Obligations.DecLeu16WritesRes0 := by
  refine ⟨by decide, fun s => ?_⟩
  rw [exec_decLeu16, execDecLeu16, decodeField_zext32 (leUint16_lanes_toNat _)]

/-- Settles O19: a signed decode of the little-endian field. -/
theorem decLes16WritesRes0 : Obligations.DecLes16WritesRes0 := by
  refine ⟨by decide, fun s u hu => ?_⟩
  rw [exec_decLes16, execDecLes16, leInt16, decodeField_sext32_tc16 ((leUint16_lanes_toNat _).trans hu.symm)]

/-- Settles O20: an unsigned decode of the 20-bit field. -/
theorem decU20WritesRes0 : Obligations.DecU20WritesRes0 := by
  refine ⟨by decide, fun s => ?_⟩
  rw [exec_decU20, execDecU20, decodeField_zext32 (u20FromTriplet_lanes_toNat _)]

/-! ### The signed fields as a bijection -/

theorem leUint16_eq_beUint16 (lo hi : Byte) : leUint16 lo hi = beUint16 hi lo := rfl

theorem leInt16_eq_beInt16 (lo hi : Byte) : leInt16 lo hi = beInt16 hi lo := by
  rw [leInt16, leUint16_eq_beUint16, beInt16]

/-- `tc16` is negative exactly when it subtracts. -/
theorem tc16_neg_iff (u : BitVec 16) : tc16 u < 0 ↔ 0x8000 ≤ u.toNat := by
  have hu := u.isLt
  unfold tc16
  split <;> omega

/-- `tc16` moves a value by a multiple of 2^16 only. -/
theorem tc16_emod (u : BitVec 16) : tc16 u % 0x10000 = u.toNat := by
  have hu := u.isLt
  unfold tc16
  split <;> omega

theorem beInt16_emod (hi lo : Byte) : beInt16 hi lo % 0x10000 = hi.toNat * 256 + lo.toNat := by
  rw [beInt16, tc16_emod, beUint16_toNat]
  push_cast
  rfl

/-- The high byte of a signed field is the second base-256 digit of its residue. -/
theorem beInt16_highByte (hi lo : Byte) : beInt16 hi lo % 0x10000 / 256 = hi.toNat := by
  have hlo := lo.isLt
  rw [beInt16_emod]
  omega

/-- The low byte of a signed field is its first base-256 digit. -/
theorem beInt16_lowByte (hi lo : Byte) : beInt16 hi lo % 256 = lo.toNat := by
  have hemod := beInt16_emod hi lo
  have hlo := lo.isLt
  omega

theorem beInt16_neg_iff_beUint16 (hi lo : Byte) : beInt16 hi lo < 0 ↔ 0x8000 ≤ (beUint16 hi lo).toNat :=
  tc16_neg_iff _

/-- The sign of a field is the top bit of its high byte. -/
theorem beInt16_neg_iff_highByte (hi lo : Byte) : beInt16 hi lo < 0 ↔ 0x80 ≤ hi.toNat := by
  have hlo := lo.isLt
  rw [beInt16_neg_iff_beUint16, beUint16_toNat]
  omega

/-- A byte pair is recovered from its field, by its two digits. -/
theorem beInt16_injective {hi lo hi' lo' : Byte} (h : beInt16 hi' lo' = beInt16 hi lo) : hi' = hi ∧ lo' = lo := by
  have hhi := beInt16_highByte hi' lo'
  have hlo := beInt16_lowByte hi' lo'
  rw [h, beInt16_highByte] at hhi
  rw [h, beInt16_lowByte] at hlo
  exact ⟨BitVec.eq_of_toNat_eq (by omega), BitVec.eq_of_toNat_eq (by omega)⟩

/-- Two signed 16-bit values with the same residue are equal. -/
theorem s16Range_eq_of_emod_eq {v w : Int} (hv : s16Range v) (hw : s16Range w) (h : v % 0x10000 = w % 0x10000) :
    v = w := by
  obtain ⟨hv1, hv2⟩ := hv
  obtain ⟨hw1, hw2⟩ := hw
  omega

/-- Every signed 16-bit value is the field of its two digits' bytes. -/
theorem beInt16_ofDigits {v : Int} (hv : s16Range v) :
    beInt16 (BitVec.ofInt 8 (v / 256)) (BitVec.ofInt 8 v) = v := by
  apply s16Range_eq_of_emod_eq (beInt16_range _ _) hv
  rw [beInt16_emod, BitVec.toNat_ofInt, BitVec.toNat_ofInt]
  omega

/-- Settles O45: the two digits of a value are its only byte pair, and the little-endian field swaps the bytes. -/
theorem signedFieldsAreBijections : Obligations.SignedFieldsAreBijections := by
  refine ⟨fun hi lo => ?_, fun v hmin hmax => ?_⟩
  · obtain ⟨hmin, hmax⟩ := beInt16_range hi lo
    exact ⟨hmin, hmax, beInt16_highByte hi lo, beInt16_lowByte hi lo, beInt16_neg_iff_highByte hi lo,
      beInt16_neg_iff_beUint16 hi lo, leInt16_eq_beInt16 lo hi, leUint16_eq_beUint16 lo hi⟩
  · have hfield := beInt16_ofDigits ⟨hmin, hmax⟩
    exact ⟨_, _, hfield, (leInt16_eq_beInt16 _ _).trans hfield,
      fun hi' lo' h => beInt16_injective (h.trans hfield.symm)⟩

/-! ### The 20-bit field -/

/-- The 20-bit field is the triplet's 24-bit number without its low nibble. -/
theorem u20FromTriplet_eq_div (m l x : Byte) :
    (u20FromTriplet m l x).toNat = (m.toNat * 65536 + l.toNat * 256 + x.toNat) / 16 := by
  rw [u20FromTriplet_toNat]
  omega

/-- Settles O46: division by 16 is monotone, and a 20-bit word is below 2^20. -/
theorem tripletIsMonotoneAndBounded : Obligations.TripletIsMonotoneAndBounded := by
  rintro m l x m' l' x' n n' rfl rfl
  rw [u20FromTriplet_eq_div m' l' x']
  refine ⟨u20FromTriplet_eq_div m l x, (u20FromTriplet m l x).isLt, fun hle => ?_⟩
  rw [u20FromTriplet_eq_div m l x]
  exact Nat.div_le_div_right hle

end Sys2Proof.Machine

/-! The statements on the magnetometer's commands, on the frames and on the magnitude (42_magnetometer.md R182 to R186,
43_barometer.md R202 to R205). -/

namespace Sys2Proof.Machine

/-! ### MAG_START and MAG_READ, one rule per path -/

theorem exec_magStart (s : State) : exec .magStart s = execMagStart s := rfl
theorem exec_magRead (s : State) : exec .magRead s = execMagRead s := rfl

theorem execMagStart_of_not_idle {s : State} (hstate : s.status.magState ≠ .idle) :
    execMagStart s = .next (complete .invalidState s) := by
  rw [execMagStart, if_pos hstate]

theorem execMagStart_acknowledged {s : State} {bytes : List Byte} {rest : List BusAnswer}
    (hstate : s.status.magState = .idle) (hbus : s.busIn = .responds bytes :: rest) :
    execMagStart s = .next (complete .ok (setMagRv false (setMagState .measuringRequested
      (afterTransaction rest (.w Config.magBusAddr (.command Config.magCmdStart) .ack) s)))) := by
  rw [execMagStart, if_neg (not_not_intro hstate), sendMagStart, busWrite_cons hbus, toWrite_responds]

theorem execMagStart_failed {s : State} {rest : List BusAnswer}
    (hstate : s.status.magState = .idle) (hbus : s.busIn = .fails :: rest) :
    execMagStart s = .next (complete .deviceUnresponsive
      (afterTransaction rest (.w Config.magBusAddr (.command Config.magCmdStart) .err) s)) := by
  rw [execMagStart, if_neg (not_not_intro hstate), sendMagStart, busWrite_cons hbus, toWrite_fails]

theorem execMagRead_of_not_requested {s : State} (hstate : s.status.magState ≠ .measuringRequested) :
    execMagRead s = .next (complete .invalidState s) := by
  rw [execMagRead, if_pos hstate]

theorem execMagRead_of_data {s : State} {a : BusAnswer} {rest : List BusAnswer} {b : Vector Byte magFrameLen}
    (hstate : s.status.magState = .measuringRequested) (hbus : s.busIn = a :: rest)
    (hdata : a.toRead magFrameLen = .data b) :
    execMagRead s = .next (complete .ok (magReadFrame b
      (afterTransaction rest (.r Config.magBusAddr Config.magCmdRead magFrameLen (.data b.toList)) s))) := by
  rw [execMagRead, if_neg (not_not_intro hstate), fetchMagFrame, busRead_cons hbus, hdata, record_data]

theorem execMagRead_of_err {s : State} {a : BusAnswer} {rest : List BusAnswer}
    (hstate : s.status.magState = .measuringRequested) (hbus : s.busIn = a :: rest)
    (herr : a.toRead magFrameLen = .err) :
    execMagRead s = .next (complete .sensorUnavailable (setMagRv false (setMagState .idle
      (afterTransaction rest (.r Config.magBusAddr Config.magCmdRead magFrameLen .err) s)))) := by
  rw [execMagRead, if_neg (not_not_intro hstate), fetchMagFrame, busRead_cons hbus, herr, record_err]

/-- The answers that a BusRead takes as Err: a failed transfer and one of another length (20_memory.md R93). -/
theorem toRead_eq_err {n : Nat} {a : BusAnswer} (h : a = .fails ∨ ∃ bytes, a = .responds bytes ∧ bytes.length ≠ n) :
    a.toRead n = .err := by
  rcases h with rfl | ⟨bytes, rfl, hlen⟩
  · exact toRead_fails n
  · exact toRead_wrong_length hlen

/-- Settles O21: one case per path of MAG_START. -/
theorem magStartFollowsItsRule : Obligations.MagStartFollowsItsRule := by
  refine ⟨by decide, fun s bytes rest => ?_⟩
  rw [exec_magStart]
  refine ⟨fun hstate hbus => ?acknowledged, fun hstate hbus => ?failed, fun hstate => ?wrongState⟩
  case acknowledged => rw [execMagStart_acknowledged hstate hbus]; rfl
  case failed => rw [execMagStart_failed hstate hbus, complete_eq_afterCompletion]
  case wrongState => rw [execMagStart_of_not_idle hstate, complete_eq_afterCompletion]

/-- Settles O22: one case per path of MAG_READ, the two answers that are Err in one. -/
theorem magReadFollowsItsRule : Obligations.MagReadFollowsItsRule := by
  refine ⟨by decide, fun s b a rest d => ?_⟩
  rw [exec_magRead]
  refine ⟨fun hstate hbus hd => ?frame, fun hstate hbus ha => ?failed, fun hstate => ?wrongState⟩
  case frame =>
    subst hd
    rw [execMagRead_of_data hstate hbus (toRead_toList b)]
    rfl
  case failed =>
    rw [execMagRead_of_err hstate hbus (toRead_eq_err ha)]
    rfl
  case wrongState => rw [execMagRead_of_not_requested hstate, complete_eq_afterCompletion]

/-! ### The frames and the calibration registers -/

theorem leUint16_range (lo hi : Byte) : u16Range (leUint16 lo hi).toNat := by
  have hlt := (leUint16 lo hi).isLt
  constructor <;> omega

/-- An unsigned field is its low byte plus 256 times its high byte. -/
theorem leUint16_toInt_eq_sum (lo hi : Byte) : ((leUint16 lo hi).toNat : Int) = lo.toNat + 256 * hi.toNat := by
  rw [leUint16_toNat]
  omega

theorem calParse_inRange (b : Vector Byte calLen) : (calParse b).InRange :=
  ⟨leUint16_range _ _, leInt16_range _ _, leInt16_range _ _, leUint16_range _ _, leInt16_range _ _, leInt16_range _ _,
    leInt16_range _ _, leInt16_range _ _, leInt16_range _ _, leInt16_range _ _, leInt16_range _ _, leInt16_range _ _⟩

theorem unsignedCoeff_range (r : Word) : u16Range (unsignedCoeff r) := by
  have hlt := (r.extractLsb' 0 16).isLt
  unfold unsignedCoeff
  constructor <;> omega

theorem signedCoeff_range (r : Word) : s16Range (signedCoeff r) := tc16_range _

theorem calib_inRange (r : CalRegs) : r.calib.InRange :=
  ⟨unsignedCoeff_range _, signedCoeff_range _, signedCoeff_range _, unsignedCoeff_range _, signedCoeff_range _,
    signedCoeff_range _, signedCoeff_range _, signedCoeff_range _, signedCoeff_range _, signedCoeff_range _,
    signedCoeff_range _, signedCoeff_range _⟩

/-- Zero extension is undone by reading bits 15:0. -/
theorem unsignedCoeff_zextCoeff {v : Int} (h : u16Range v) : unsignedCoeff (zextCoeff v) = v := by
  obtain ⟨hmin, hmax⟩ := h
  rw [unsignedCoeff, extractLsb'_toNat_eq_digit, zextCoeff, BitVec.toNat_ofNat]
  omega

/-- Sign extension is undone by reading bits 15:0 as two's complement: both keep the residue modulo 2^16. -/
theorem signedCoeff_sext32 {v : Int} (h : s16Range v) : signedCoeff (sext32 v) = v := by
  apply s16Range_eq_of_emod_eq (signedCoeff_range _) h
  rw [signedCoeff, tc16_emod, extractLsb'_toNat_eq_digit, sext32, BitVec.toNat_ofInt]
  omega

/-- `calib()` gives back a set in range (43_barometer.md R204). -/
theorem calib_regs {c : Calib} (h : c.InRange) : c.regs.calib = c := by
  obtain ⟨t1, t2, t3, p1, p2, p3, p4, p5, p6, p7, p8, p9⟩ := c
  obtain ⟨ht1, ht2, ht3, hp1, hp2, hp3, hp4, hp5, hp6, hp7, hp8, hp9⟩ := h
  simp only [Calib.regs, CalRegs.calib, unsignedCoeff_zextCoeff ht1, unsignedCoeff_zextCoeff hp1, signedCoeff_sext32 ht2,
    signedCoeff_sext32 ht3, signedCoeff_sext32 hp2, signedCoeff_sext32 hp3, signedCoeff_sext32 hp4, signedCoeff_sext32 hp5,
    signedCoeff_sext32 hp6, signedCoeff_sext32 hp7, signedCoeff_sext32 hp8, signedCoeff_sext32 hp9]

/-- Settles O47: the frames are read field by field, and each coefficient is read back from its own register. -/
theorem framesDecodeAndCalibrationReadsBack : Obligations.FramesDecodeAndCalibrationReadsBack := by
  refine ⟨fun b => ?magFrame, fun b => ?dataBlock, fun b => ?calBlock, fun c => calib_regs, calib_inRange⟩
  case magFrame => rfl
  case dataBlock => exact ⟨rfl, rfl⟩
  case calBlock =>
    exact ⟨calParse_inRange b, leUint16_toInt_eq_sum _ _, rfl, rfl, leUint16_toInt_eq_sum _ _, rfl, rfl, rfl, rfl, rfl,
      rfl, rfl, rfl⟩

/-! ### Exact conversion of integers -/

/-- An integer of at most 53 bits, times a power of two in the range of the exponent, is the value of an encoding: its bits
are moved up to fill the significand. -/
theorem exists_unitsOfBits_eq {n e : Nat} (hn : n < 2 ^ 53) (hlow : 52 ≤ e) (hhigh : e ≤ 1993) :
    ∃ bits, bits < infBits ∧ unitsOfBits bits = n * 2 ^ e := by
  rcases Nat.eq_zero_or_pos n with rfl | hpos
  · exact ⟨0, by decide, by rw [unitsOfBits_zero, Nat.zero_mul]⟩
  have hlog : n.log2 ≤ 52 := Nat.lt_succ_iff.1 ((Nat.log2_lt hpos.ne').2 hn)
  have hsig : 2 ^ 52 ≤ n * 2 ^ (52 - n.log2) :=
    calc 2 ^ 52 = 2 ^ n.log2 * 2 ^ (52 - n.log2) := by rw [← Nat.pow_add, Nat.add_sub_cancel' hlog]
      _ ≤ n * 2 ^ (52 - n.log2) := Nat.mul_le_mul_right _ (Nat.log2_self_le hpos.ne')
  have hsig' : n * 2 ^ (52 - n.log2) < 2 ^ 53 :=
    calc n * 2 ^ (52 - n.log2) < 2 ^ (n.log2 + 1) * 2 ^ (52 - n.log2) :=
          Nat.mul_lt_mul_of_pos_right Nat.lt_log2_self (Nat.two_pow_pos _)
      _ = 2 ^ 53 := by rw [← Nat.pow_add]; congr 1; omega
  refine ⟨(e - 52 + n.log2) * 2 ^ 52 + n * 2 ^ (52 - n.log2), ?_, ?_⟩
  · show _ < 2047 * 2 ^ 52
    omega
  · rw [unitsOfBits_eq (.inr hsig) hsig'.le, Nat.mul_assoc, ← Nat.pow_add]
    congr 2
    omega

/-- An integer below 2^53 is rounded to an encoding of its own value. -/
theorem roundBits_integer {n : Nat} (hn : n < 2 ^ 53) :
    roundBits (n * oneUnits) 1 < infBits ∧ unitsOfBits (roundBits (n * oneUnits) 1) = n * oneUnits := by
  obtain ⟨bits, hfin, hunits⟩ := exists_unitsOfBits_eq (e := 1074) hn (by norm_num) (by norm_num)
  have hround : roundBits (n * oneUnits) 1 = bits := by
    rw [← hunits, ← Nat.mul_one (unitsOfBits bits), roundBits_exact Nat.one_pos hfin]
  rw [hround]
  exact ⟨hfin, hunits⟩

theorem isFinite_f64 {n : Int} (hn : n.natAbs < 2 ^ 53) : isFinite (f64 n) = true :=
  isFinite_packSign (roundBits_integer hn).1

theorem msb_f64 {n : Int} (hn : n.natAbs < 2 ^ 53) : (f64 n).msb = decide (n < 0) :=
  msb_packSign (roundBits_integer hn).1.le

theorem magUnits_f64 {n : Int} (hn : n.natAbs < 2 ^ 53) : magUnits (f64 n) = n.natAbs * oneUnits := by
  obtain ⟨hfin, hunits⟩ := roundBits_integer hn
  rw [f64, magUnits_packSign hfin.le, hunits]

theorem oneUnits_cast : ((oneUnits : Nat) : Int) = 2 ^ 1074 := Nat.cast_pow 2 1074

/-- The conversion of an integer below 2^53 is exact (00_scope.md R16). -/
theorem toUnits_f64 {n : Int} (hn : n.natAbs < 2 ^ 53) : toUnits (f64 n) = n * 2 ^ 1074 := by
  rw [toUnits, msb_f64 hn, magUnits_f64 hn, Nat.cast_mul, oneUnits_cast]
  rcases lt_or_ge n 0 with hneg | hnonneg
  · rw [if_pos (decide_eq_true hneg), Int.ofNat_natAbs_of_nonpos hneg.le, Int.neg_mul, Int.neg_neg]
  · rw [if_neg (by simpa using hnonneg), Int.natAbs_of_nonneg hnonneg]

/-! ### Square roots -/

theorem sqrtBits_le_infBits (mag : Nat) : sqrtBits mag ≤ infBits := roundBits_le_infBits _ _

theorem sqrtBits_zero : sqrtBits 0 = 0 := by
  have hs : isqrt 0 = 0 := by decide
  rw [sqrtBits, Nat.zero_mul, hs, if_pos rfl, Nat.mul_zero, roundBits_zero]

/-- The root of a finite value that is not negative, zero included, is the packed rounding of its units' root. -/
theorem fSqrt_finite {a : F64} (hfin : isFinite a = true) (hsign : a.msb = false) :
    fSqrt a = packSign false (sqrtBits (magUnits a)) := by
  obtain ⟨hnan, hinf⟩ := (isFinite_iff a).1 hfin
  rw [fSqrt, hnan, hsign, hinf]
  rcases eq_or_ne (magBits a) 0 with hzero | hpos
  · have ha : a = 0#64 := by
      rw [magBits_eq] at hzero
      rw [BitVec.msb_eq_decide, decide_eq_false_iff_not] at hsign
      have hlt := a.isLt
      apply BitVec.eq_of_toNat_eq
      rw [BitVec.toNat_ofNat]
      omega
    rw [magUnits, hzero, unitsOfBits_zero, sqrtBits_zero, ha]
    rfl
  · simp [hpos]

/-- The encoding of such a root has no sign bit to add. -/
theorem fSqrt_finite_toNat {a : F64} (hfin : isFinite a = true) (hsign : a.msb = false) :
    (fSqrt a).toNat = sqrtBits (magUnits a) := by
  rw [fSqrt_finite hfin hsign, packSign_toNat (sqrtBits_le_infBits _), if_neg Bool.false_ne_true, Nat.add_zero]

/-- A root of at most `h` units rounds to at most what `h` rounds to, also where it is not an integer number of units. -/
theorem sqrtBits_le_roundBits {mag h : Nat} (hroot : mag * oneUnits ≤ h * h) : sqrtBits mag ≤ roundBits h 1 := by
  obtain ⟨hlow, -⟩ := isqrt_spec (mag * oneUnits)
  have hle : isqrt (mag * oneUnits) ≤ h := Nat.mul_self_le_mul_self_iff.1 (hlow.trans hroot)
  rw [sqrtBits]
  apply roundBits_mono Nat.two_pos Nat.one_pos
  split
  case isTrue => omega
  case isFalse hne =>
    have hneq : isqrt (mag * oneUnits) ≠ h := fun heq => hne (le_antisymm hlow (heq ▸ hroot))
    omega

/-! ### The magnitude -/

/-- The encoding of 56755.84086241697 (42_magnetometer.md R184). -/
def maxMagnitude : Nat := 0x40EBB67AE8584CAA

/-- The value half-way between `maxMagnitude` and the next encoding, in units of 2^-1074. The root of 3 * 2^30 lies just
below it, above `maxMagnitude`. -/
def halfwayAboveMax : Nat := (2 * 0x1BB67AE8584CAA + 1) * 2 ^ 1036

/-- The tie rounds down, to the even encoding. -/
theorem roundBits_halfwayAboveMax : roundBits halfwayAboveMax 1 = maxMagnitude := by decide +kernel

theorem maxSquares_le_halfway_sq : 3 * 2 ^ 30 * oneUnits * oneUnits ≤ halfwayAboveMax * halfwayAboveMax := by
  decide +kernel

theorem f64Lit_maxMagnitude : f64Lit 5675584086241697 100000000000 = BitVec.ofNat 64 maxMagnitude := by decide +kernel

/-- The square of a signed 16-bit axis is at most 2^30. -/
theorem sq_le_of_s16Range {v : Int} (h : s16Range v) : v * v ≤ 2 ^ 30 := by
  obtain ⟨hmin, hmax⟩ := h
  have hgap : 0 ≤ (32768 - v) * (32768 + v) := mul_nonneg (by omega) (by omega)
  linarith

theorem sumSq_nonneg (x y z : Int) : 0 ≤ x * x + y * y + z * z :=
  add_nonneg (add_nonneg (mul_self_nonneg x) (mul_self_nonneg y)) (mul_self_nonneg z)

/-- The sum of squares of R183 is at most 3 * 2^30. -/
theorem sumSq_le {x y z : Int} (hx : s16Range x) (hy : s16Range y) (hz : s16Range z) :
    x * x + y * y + z * z ≤ 3 * 2 ^ 30 := by
  have hxx := sq_le_of_s16Range hx
  have hyy := sq_le_of_s16Range hy
  have hzz := sq_le_of_s16Range hz
  omega

/-- The root of an exactly converted integer of at most 3 * 2^30 is not negative, and at most `maxMagnitude`. -/
theorem fSqrt_f64_le {n : Int} (hnonneg : 0 ≤ n) (hmax : n ≤ 3 * 2 ^ 30) : (fSqrt (f64 n)).toNat ≤ maxMagnitude := by
  have hn : n.natAbs < 2 ^ 53 := by omega
  have hsign : (f64 n).msb = false := by rw [msb_f64 hn]; exact decide_eq_false (Int.not_lt.2 hnonneg)
  rw [fSqrt_finite_toNat (isFinite_f64 hn) hsign, magUnits_f64 hn]
  have habs : n.natAbs ≤ 3 * 2 ^ 30 := by omega
  have hroot : n.natAbs * oneUnits * oneUnits ≤ halfwayAboveMax * halfwayAboveMax :=
    (Nat.mul_le_mul_right _ (Nat.mul_le_mul_right _ habs)).trans maxSquares_le_halfway_sq
  exact (sqrtBits_le_roundBits hroot).trans_eq roundBits_halfwayAboveMax

theorem magnitude_swap_xy (x y z : Int) : magnitude x y z = magnitude y x z := by
  rw [magnitude, magnitude, Int.add_comm (x * x)]

theorem magnitude_swap_yz (x y z : Int) : magnitude x y z = magnitude x z y := by
  rw [magnitude, magnitude, Int.add_right_comm]

theorem magnitude_neg_x (x y z : Int) : magnitude (-x) y z = magnitude x y z := by
  rw [magnitude, magnitude, Int.neg_mul_neg]

/-- Settles O51: the sum of squares is small enough to be converted exactly, and its root is bounded by the root of the
largest sum. -/
theorem magnitudeIsBoundedAndSymmetric : Obligations.MagnitudeIsBoundedAndSymmetric := by
  intro x y z hx hy hz
  have hnonneg := sumSq_nonneg x y z
  have hmax := sumSq_le hx hy hz
  have hexact := toUnits_f64 (n := x * x + y * y + z * z) (by omega)
  exact ⟨rfl, hmax, hexact, fSqrt_f64_le hnonneg hmax, f64Lit_maxMagnitude, magnitude_swap_xy x y z,
    magnitude_swap_yz x y z, magnitude_neg_x x y z⟩

end Sys2Proof.Machine

/-! The statements on the barometer's commands (43_barometer.md R207 to R210). -/

namespace Sys2Proof.Machine

/-! ### A transaction touches no register, so the register writes after it commute with it -/

theorem dropToUninit_afterTransaction (rest : List BusAnswer) (e : BusEntry) (s : State) :
    dropToUninit (afterTransaction rest e s) = afterTransaction rest e (dropToUninit s) := rfl

theorem setBaroState_afterTransaction (b : BaroState) (rest : List BusAnswer) (e : BusEntry) (s : State) :
    setBaroState b (afterTransaction rest e s) = afterTransaction rest e (setBaroState b s) := rfl

theorem setBaroRv_afterTransaction (v : Bool) (rest : List BusAnswer) (e : BusEntry) (s : State) :
    setBaroRv v (afterTransaction rest e s) = afterTransaction rest e (setBaroRv v s) := rfl

theorem writeCal_afterTransaction (c : Calib) (rest : List BusAnswer) (e : BusEntry) (s : State) :
    writeCal c (afterTransaction rest e s) = afterTransaction rest e (writeCal c s) := rfl

theorem compensateAndWrite_afterTransaction (adcT adcP : BitVec 20) (rest : List BusAnswer) (e : BusEntry) (s : State) :
    compensateAndWrite adcT adcP (afterTransaction rest e s) =
      afterTransaction rest e (compensateAndWrite adcT adcP s) := rfl

/-- Of two transactions in a row, the answers left are those that the second one leaves. -/
theorem afterTransaction_afterTransaction (rest rest' rest'' : List BusAnswer) (e e' : BusEntry) (s : State) :
    afterTransaction rest e' (afterTransaction rest' e s) =
      afterTransaction rest e' (afterTransaction rest'' e s) := rfl

/-! ### BARO_CONFIGURE -/

theorem exec_baroConfigure (s : State) : exec .baroConfigure s = execBaroConfigure s := rfl

/-- BARO_STATE after both writes are acknowledged: only UNINIT changes, to CONFIGURED (43_barometer.md R207). -/
abbrev configuredState (b : BaroState) : BaroState := if b = .uninit then .configured else b

/-- Keeping BARO_STATE is writing it back, so the command ends with one write of the register on either side. -/
theorem ite_setBaroState_configured (s : State) :
    (if s.status.baroState = .uninit then setBaroState .configured s else s) =
      setBaroState (configuredState s.status.baroState) s := by
  by_cases huninit : s.status.baroState = .uninit
  · rw [if_pos huninit, configuredState, if_pos huninit]
  · rw [if_neg huninit, configuredState, if_neg huninit]
    rfl

theorem execBaroConfigure_control_failed {s : State} {rest : List BusAnswer} (hbus : s.busIn = .fails :: rest) :
    execBaroConfigure s = .next (complete .deviceUnresponsive (dropToUninit
      (afterTransaction rest (controlWrite .err) s))) := by
  rw [execBaroConfigure, writeControl, busWrite_cons hbus, toWrite_fails]

theorem execBaroConfigure_config_failed {s : State} {bytes : List Byte} {rest : List BusAnswer}
    (hbus : s.busIn = .responds bytes :: .fails :: rest) :
    execBaroConfigure s = .next (complete .deviceUnresponsive (dropToUninit
      (afterTransaction rest (configWrite .err) (afterTransaction (.fails :: rest) (controlWrite .ack) s)))) := by
  simp only [execBaroConfigure, busWrite_cons hbus, busWrite_cons (afterTransaction_busIn _ _ _), toWrite_responds,
    toWrite_fails]

theorem execBaroConfigure_acknowledged {s : State} {bytes1 bytes2 : List Byte} {rest : List BusAnswer}
    (hbus : s.busIn = .responds bytes1 :: .responds bytes2 :: rest) :
    execBaroConfigure s = .next (complete .ok (setBaroState (configuredState s.status.baroState)
      (afterTransaction rest (configWrite .ack)
        (afterTransaction (.responds bytes2 :: rest) (controlWrite .ack) s)))) := by
  simp only [execBaroConfigure, busWrite_cons hbus, busWrite_cons (afterTransaction_busIn _ _ _), toWrite_responds,
    ite_setBaroState_configured]
  rw [afterTransaction_status, afterTransaction_status]

/-- Settles O23: one case per path, by which of the two writes fails first. -/
theorem baroConfigureFollowsItsRule : Obligations.BaroConfigureFollowsItsRule := by
  refine ⟨by decide, ?_⟩
  rintro s bytes1 bytes2 rest ctrl config rfl rfl
  rw [exec_baroConfigure]
  refine ⟨fun hbus => ?acknowledged, fun hbus => ?controlFailed, fun hbus => ?configFailed⟩
  case acknowledged =>
    rw [execBaroConfigure_acknowledged hbus, afterTransaction_afterTransaction rest _ rest,
      setBaroState_afterTransaction, setBaroState_afterTransaction, complete_eq_afterCompletion, setBaroState]
  case controlFailed =>
    rw [execBaroConfigure_control_failed hbus, dropToUninit_afterTransaction, complete_eq_afterCompletion, dropToUninit,
      Status.uninitialized]
  case configFailed =>
    rw [execBaroConfigure_config_failed hbus, afterTransaction_afterTransaction rest _ rest,
      dropToUninit_afterTransaction, dropToUninit_afterTransaction, complete_eq_afterCompletion, dropToUninit,
      Status.uninitialized]

/-! ### BARO_LOAD_CAL -/

theorem exec_baroLoadCal (s : State) : exec .baroLoadCal s = execBaroLoadCal s := rfl

theorem execBaroLoadCal_of_uninit {s : State} (hstate : s.status.baroState = .uninit) :
    execBaroLoadCal s = .next (complete .invalidState s) := by
  rw [execBaroLoadCal, if_pos hstate]

theorem execBaroLoadCal_of_data {s : State} {a : BusAnswer} {rest : List BusAnswer} {b : Vector Byte calLen}
    (hstate : s.status.baroState ≠ .uninit) (hbus : s.busIn = a :: rest) (hdata : a.toRead calLen = .data b) :
    execBaroLoadCal s = .next (complete .ok (setBaroState .ready (writeCal (calParse b)
      (afterTransaction rest (.r Config.baroBusAddr Config.baroRegCalib calLen (.data b.toList)) s)))) := by
  rw [execBaroLoadCal, if_neg hstate, fetchCalBlock, busRead_cons hbus, hdata, record_data]

theorem execBaroLoadCal_of_err {s : State} {a : BusAnswer} {rest : List BusAnswer}
    (hstate : s.status.baroState ≠ .uninit) (hbus : s.busIn = a :: rest) (herr : a.toRead calLen = .err) :
    execBaroLoadCal s = .next (complete .deviceUnresponsive (dropToUninit
      (afterTransaction rest (.r Config.baroBusAddr Config.baroRegCalib calLen .err) s))) := by
  rw [execBaroLoadCal, if_neg hstate, fetchCalBlock, busRead_cons hbus, herr, record_err]

/-- An integer that is not negative is extended to one register value either way. -/
theorem zextCoeff_eq_sext32 {v : Int} (h : 0 ≤ v) : zextCoeff v = sext32 v := by
  rw [zextCoeff, sext32, ← BitVec.ofInt_natCast, Int.toNat_of_nonneg h]

/-- Every coefficient in range is stored as its residue modulo 2^32, the unsigned two included (10_state.md R62). -/
theorem Calib_regs_of_inRange {c : Calib} (h : c.InRange) :
    c.regs =
      { t1 := sext32 c.t1, t2 := sext32 c.t2, t3 := sext32 c.t3,
        p1 := sext32 c.p1, p2 := sext32 c.p2, p3 := sext32 c.p3, p4 := sext32 c.p4, p5 := sext32 c.p5,
        p6 := sext32 c.p6, p7 := sext32 c.p7, p8 := sext32 c.p8, p9 := sext32 c.p9 } := by
  obtain ⟨⟨ht1, -⟩, -, -, ⟨hp1, -⟩, -⟩ := h
  rw [Calib.regs, zextCoeff_eq_sext32 ht1, zextCoeff_eq_sext32 hp1]

/-- Settles O24: one case per path of BARO_LOAD_CAL, the two answers that are Err in one; a parsed block is always in
range, so the twelve registers hold its integers. -/
theorem baroLoadCalFollowsItsRule : Obligations.BaroLoadCalFollowsItsRule := by
  refine ⟨by decide, fun s b a rest c => ?_⟩
  rw [exec_baroLoadCal]
  refine ⟨fun hstate hbus hc => ?block, fun hstate hbus ha => ?failed, fun hstate => ?wrongState⟩
  case block =>
    subst hc
    rw [execBaroLoadCal_of_data hstate hbus (toRead_toList b), writeCal_afterTransaction, setBaroState_afterTransaction,
      complete_eq_afterCompletion, writeCal, Calib_regs_of_inRange (calParse_inRange b)]
    rfl
  case failed =>
    rw [execBaroLoadCal_of_err hstate hbus (toRead_eq_err ha), dropToUninit_afterTransaction,
      complete_eq_afterCompletion]
    rfl
  case wrongState => rw [execBaroLoadCal_of_uninit hstate, complete_eq_afterCompletion]

/-! ### BARO_READ and BARO_COMPENSATE -/

theorem exec_baroRead (s : State) : exec .baroRead s = execBaroRead s := rfl
theorem exec_baroCompensate (s : State) : exec .baroCompensate s = execBaroCompensate s := rfl

theorem execBaroRead_of_not_ready {s : State} (hstate : s.status.baroState ≠ .ready) :
    execBaroRead s = .next (complete .notInitialized s) := by
  rw [execBaroRead, if_pos hstate]

theorem execBaroRead_of_data {s : State} {a : BusAnswer} {rest : List BusAnswer} {b : Vector Byte dataLen}
    (hstate : s.status.baroState = .ready) (hbus : s.busIn = a :: rest) (hdata : a.toRead dataLen = .data b) :
    execBaroRead s = .next (complete .ok (compensateAndWrite (dataDecode b).adcT (dataDecode b).adcP
      (afterTransaction rest (.r Config.baroBusAddr Config.baroRegData dataLen (.data b.toList)) s))) := by
  rw [execBaroRead, if_neg (not_not_intro hstate), fetchDataBlock, busRead_cons hbus, hdata, record_data]

theorem execBaroRead_of_err {s : State} {a : BusAnswer} {rest : List BusAnswer}
    (hstate : s.status.baroState = .ready) (hbus : s.busIn = a :: rest) (herr : a.toRead dataLen = .err) :
    execBaroRead s = .next (complete .sensorUnavailable (setBaroRv false
      (afterTransaction rest (.r Config.baroBusAddr Config.baroRegData dataLen .err) s))) := by
  rw [execBaroRead, if_neg (not_not_intro hstate), fetchDataBlock, busRead_cons hbus, herr, record_err]

theorem execBaroCompensate_of_not_ready {s : State} (hstate : s.status.baroState ≠ .ready) :
    execBaroCompensate s = .next (complete .notInitialized s) := by
  rw [execBaroCompensate, if_pos hstate]

theorem execBaroCompensate_of_ready {s : State} (hstate : s.status.baroState = .ready) :
    execBaroCompensate s =
      .next (complete .ok (compensateAndWrite (adcOperand s.latch.larg0) (adcOperand s.latch.larg1) s)) := by
  rw [execBaroCompensate, if_neg (not_not_intro hstate)]

/-- The engine runs with the calibration read back from the registers, and its record is stored whole (43_barometer.md
R206). -/
theorem compensateAndWrite_eq_writeBaroResults {adcT adcP : BitVec 20} {s : State} {res : CompResult}
    (hres : res = compensateWith Config.squareOrder powF64 adcT adcP s.cal.calib) :
    compensateAndWrite adcT adcP s = writeBaroResults adcT adcP res s := by
  rw [hres, compensateAndWrite, compensate]

/-- Settles O25: one case per path of BARO_READ, the two answers that are Err in one. -/
theorem baroReadFollowsItsRule : Obligations.BaroReadFollowsItsRule := by
  refine ⟨by decide, fun s b a rest res => ?_⟩
  rw [exec_baroRead]
  refine ⟨fun hstate hbus hres => ?block, fun hstate hbus ha => ?failed, fun hstate => ?wrongState⟩
  case block =>
    rw [execBaroRead_of_data hstate hbus (toRead_toList b), compensateAndWrite_afterTransaction,
      compensateAndWrite_eq_writeBaroResults hres, complete_eq_afterCompletion]
    rfl
  case failed =>
    rw [execBaroRead_of_err hstate hbus (toRead_eq_err ha), setBaroRv_afterTransaction, complete_eq_afterCompletion]
    rfl
  case wrongState => rw [execBaroRead_of_not_ready hstate, complete_eq_afterCompletion]

/-- Settles O26: in READY the ADC codes are the low 20 bits of the latches. -/
theorem baroCompensateFollowsItsRule : Obligations.BaroCompensateFollowsItsRule := by
  refine ⟨by decide, ?_⟩
  rintro s adcT adcP res rfl rfl
  rw [exec_baroCompensate]
  refine ⟨fun hstate hres => ?compensated, fun hstate => ?wrongState⟩
  case compensated =>
    rw [execBaroCompensate_of_ready hstate, adcOperand_eq_setWidth, adcOperand_eq_setWidth,
      compensateAndWrite_eq_writeBaroResults hres, complete_eq_afterCompletion]
    rfl
  case wrongState => rw [execBaroCompensate_of_not_ready hstate, complete_eq_afterCompletion]

end Sys2Proof.Machine

/-! The statements on the compensation engine (44_compensation.md R231 to R253). -/

namespace Sys2Proof.Machine

/-! ### The literals of the formula as encodings (44_compensation.md R231) -/

theorem f64Lit_one : f64Lit 1 1 = 0x3FF0000000000000#64 := by decide +kernel
theorem f64Lit_two : f64Lit 2 1 = 0x4000000000000000#64 := by decide +kernel
theorem f64Lit_four : f64Lit 4 1 = 0x4010000000000000#64 := by decide +kernel
theorem f64Lit_16 : f64Lit 16 1 = 0x4030000000000000#64 := by decide +kernel
theorem f64Lit_100 : f64Lit 100 1 = 0x4059000000000000#64 := by decide +kernel
theorem f64Lit_1024 : f64Lit 1024 1 = 0x4090000000000000#64 := by decide +kernel
theorem f64Lit_4096 : f64Lit 4096 1 = 0x40B0000000000000#64 := by decide +kernel
theorem f64Lit_5120 : f64Lit 5120 1 = 0x40B4000000000000#64 := by decide +kernel
theorem f64Lit_6250 : f64Lit 6250 1 = 0x40B86A0000000000#64 := by decide +kernel
theorem f64Lit_8192 : f64Lit 8192 1 = 0x40C0000000000000#64 := by decide +kernel
theorem f64Lit_16384 : f64Lit 16384 1 = 0x40D0000000000000#64 := by decide +kernel
theorem f64Lit_32768 : f64Lit 32768 1 = 0x40E0000000000000#64 := by decide +kernel
theorem f64Lit_64000 : f64Lit 64000 1 = 0x40EF400000000000#64 := by decide +kernel
theorem f64Lit_65536 : f64Lit 65536 1 = 0x40F0000000000000#64 := by decide +kernel
theorem f64Lit_131072 : f64Lit 131072 1 = 0x4100000000000000#64 := by decide +kernel
theorem f64Lit_524288 : f64Lit 524288 1 = 0x4120000000000000#64 := by decide +kernel
theorem f64Lit_1048576 : f64Lit 1048576 1 = 0x4130000000000000#64 := by decide +kernel
theorem f64Lit_2147483648 : f64Lit 2147483648 1 = 0x41E0000000000000#64 := by decide +kernel

/-- A literal without a fraction is the conversion of the integer. -/
theorem f64Lit_den_one (n : Nat) : f64Lit n 1 = f64 n := by
  rw [f64Lit, f64, Int.natAbs_natCast, decide_eq_false (Int.not_lt.2 (Int.natCast_nonneg n))]

/-! ### The engine's functions with their literals as encodings -/

theorem compTv1_eq (adcT : BitVec 20) (c : Calib) :
    compTv1 adcT c = fMul (fSub (fDiv (f64 adcT.toNat) 0x40D0000000000000#64)
      (fDiv (f64 c.t1) 0x4090000000000000#64)) (f64 c.t2) := by
  rw [compTv1, f64Lit_16384, f64Lit_1024]

/-- The difference that `tv2` squares (44_compensation.md R234). -/
def tempDiff (adcT : BitVec 20) (c : Calib) : F64 :=
  fSub (fDiv (f64 adcT.toNat) (f64Lit 131072 1)) (fDiv (f64 c.t1) (f64Lit 8192 1))

theorem tempDiff_eq (adcT : BitVec 20) (c : Calib) :
    tempDiff adcT c =
      fSub (fDiv (f64 adcT.toNat) 0x4100000000000000#64) (fDiv (f64 c.t1) 0x40C0000000000000#64) := by
  rw [tempDiff, f64Lit_131072, f64Lit_8192]

theorem compTv2_eq (adcT : BitVec 20) (c : Calib) :
    compTv2 adcT c = fMul (fMul (tempDiff adcT c) (tempDiff adcT c)) (f64 c.t3) := rfl

theorem compTemperature_eq (tFine : F64) : compTemperature tFine = fDiv tFine 0x40B4000000000000#64 := by
  rw [compTemperature, f64Lit_5120]

theorem compQ1_eq (tFine : F64) :
    compQ1 tFine = fSub (fDiv tFine 0x4000000000000000#64) 0x40EF400000000000#64 := by
  rw [compQ1, f64Lit_two, f64Lit_64000]

theorem compW2_eq (q1 : F64) (c : Calib) :
    compW2 q1 c =
      fAdd (fDiv (fAdd (fDiv (fMul (fMul q1 q1) (f64 c.p6)) 0x40E0000000000000#64)
          (fMul (fMul q1 (f64 c.p5)) 0x4000000000000000#64)) 0x4010000000000000#64)
        (fMul (f64 c.p4) 0x40F0000000000000#64) := by
  rw [compW2, f64Lit_32768, f64Lit_two, f64Lit_four, f64Lit_65536]

/-- `q2`, the pressure scale before it is normalised (44_compensation.md R240). -/
def scaleTerm (order : SquareOrder) (q1 : F64) (c : Calib) : F64 :=
  fDiv (fAdd (fDiv (compSq order (f64 c.p3) q1) (f64Lit 524288 1)) (fMul (f64 c.p2) q1)) (f64Lit 524288 1)

theorem scaleTerm_eq (order : SquareOrder) (q1 : F64) (c : Calib) :
    scaleTerm order q1 c =
      fDiv (fAdd (fDiv (compSq order (f64 c.p3) q1) 0x4120000000000000#64) (fMul (f64 c.p2) q1))
        0x4120000000000000#64 := by
  rw [scaleTerm, f64Lit_524288]

/-- The factor `1.0 ⊕ (q2 ⊘ 32768.0)` of `q3` (44_compensation.md R240, R252). -/
def scaleFactor (order : SquareOrder) (q1 : F64) (c : Calib) : F64 :=
  fAdd (f64Lit 1 1) (fDiv (scaleTerm order q1 c) (f64Lit 32768 1))

theorem scaleFactor_eq (order : SquareOrder) (q1 : F64) (c : Calib) :
    scaleFactor order q1 c =
      fAdd 0x3FF0000000000000#64 (fDiv (scaleTerm order q1 c) 0x40E0000000000000#64) := by
  rw [scaleFactor, f64Lit_one, f64Lit_32768]

theorem compQ3_eq (order : SquareOrder) (q1 : F64) (c : Calib) :
    compQ3 order q1 c = fMul (scaleFactor order q1 c) (f64 c.p1) := rfl

theorem compP1_eq (adcP : BitVec 20) (w2 q3 : F64) :
    compP1 adcP w2 q3 =
      fDiv (fMul (fSub (fSub 0x4130000000000000#64 (f64 adcP.toNat)) (fDiv w2 0x40B0000000000000#64))
        0x40B86A0000000000#64) q3 := by
  rw [compP1, f64Lit_1048576, f64Lit_4096, f64Lit_6250]

theorem compPressure_eq (order : SquareOrder) (p1 : F64) (c : Calib) :
    compPressure order p1 c =
      fDiv (fAdd p1 (fDiv (fAdd (fAdd (fDiv (compSq order (f64 c.p9) p1) 0x41E0000000000000#64)
        (fDiv (fMul p1 (f64 c.p8)) 0x40E0000000000000#64)) (f64 c.p7)) 0x4030000000000000#64))
        0x4059000000000000#64 := by
  rw [compPressure, f64Lit_2147483648, f64Lit_32768, f64Lit_16, f64Lit_100]

/-! ### The fields of the engine's record (44_compensation.md R248) -/

section
variable (order : SquareOrder) (pow : F64 → F64 → F64) (adcT adcP : BitVec 20) (c : Calib)

theorem compensateWith_tFine : (compensateWith order pow adcT adcP c).tFine = compTfine adcT c := by
  rw [compensateWith]

theorem compensateWith_temperature :
    (compensateWith order pow adcT adcP c).temperature = compTemperature (compTfine adcT c) := by
  rw [compensateWith]

theorem compensateWith_degenerate :
    (compensateWith order pow adcT adcP c).degenerate = fEq (compQ3 order (compQ1 (compTfine adcT c)) c) fZero := by
  rw [compensateWith]

theorem compensateWith_pressure :
    (compensateWith order pow adcT adcP c).pressure =
      if (compensateWith order pow adcT adcP c).degenerate then fZero
      else compPressure order (compP1 adcP (compW2 (compQ1 (compTfine adcT c)) c)
        (compQ3 order (compQ1 (compTfine adcT c)) c)) c := by
  rw [compensateWith]

theorem compensateWith_altInvalid :
    (compensateWith order pow adcT adcP c).altInvalid =
      fLt (compensateWith order pow adcT adcP c).pressure fZero := by
  rw [compensateWith]

theorem compensateWith_altitude :
    (compensateWith order pow adcT adcP c).altitude =
      if (compensateWith order pow adcT adcP c).altInvalid then fZero
      else compAltitude pow (compensateWith order pow adcT adcP c).pressure := by
  rw [compensateWith]

end

/-! ### The temperature path -/

/-- Settles O52: the model's functions are the formula, with the encodings of their literals. -/
theorem temperaturePathIsTheFormula : Obligations.TemperaturePathIsTheFormula := by
  rintro order pow adcT adcP c at' t1 td tFine rfl rfl rfl rfl
  rw [← tempDiff_eq, ← compTv1_eq, ← compTv2_eq, ← compTfine, ← compTemperature_eq]
  exact ⟨compensateWith_tFine .., compensateWith_temperature ..⟩

/-! ### The pressure path -/

/-- Only the two zeros compare equal to zero (00_scope.md R16). -/
theorem fEq_zero_iff (x : F64) : fEq x fZero = true ↔ magBits x = 0 := by
  have hzero : orderKey fZero = 0 := by decide
  have hnan : isNaN fZero = false := by decide
  have hkey : orderKey x = 0 ↔ magBits x = 0 := by unfold orderKey; split <;> omega
  rw [fEq, hnan, hzero, Bool.not_false, Bool.and_true, Bool.and_eq_true, beq_iff_eq, hkey]
  refine ⟨And.right, fun h => ⟨?_, h⟩⟩
  rw [isNaN, h]
  rfl

theorem fEq_zero_iff_toUnits (x : F64) : fEq x fZero = true ↔ toUnits x = 0 :=
  (fEq_zero_iff x).trans (toUnits_eq_zero x).symm

/-- Settles O53: the intermediates of the rules are the model's, and `q3` compared with zero picks the path. -/
theorem pressurePathIsTheFormula : Obligations.PressurePathIsTheFormula := by
  rintro order pow adcT adcP c sq q1 w0 w1 w2 a q2 q3 p0 p1 v9 v8 pa res rfl hsq hq1 rfl rfl hw2 rfl hq2 hq3 rfl hp1 rfl rfl
    rfl
  obtain rfl : sq = compSq order := by rw [hsq]; funext k v; cases order <;> rfl
  rw [compensateWith_tFine, ← compQ1_eq] at hq1
  rw [← compW2_eq] at hw2
  rw [← scaleTerm_eq] at hq2
  rw [hq2, ← scaleFactor_eq, ← compQ3_eq] at hq3
  rw [← compP1_eq] at hp1
  rw [← compPressure_eq]
  have hdegen : (compensateWith order pow adcT adcP c).degenerate = fEq q3 fZero := by
    rw [compensateWith_degenerate, hq3, hq1]
  rw [hdegen]
  refine ⟨fun h => ⟨h, ?degenerate⟩, fun h => ⟨h, ?formula⟩, fun _ => fEq_zero_iff_toUnits q3⟩
  case degenerate => rw [compensateWith_pressure, hdegen, if_pos h]; rfl
  case formula => rw [compensateWith_pressure, hdegen, if_neg (Bool.eq_false_iff.1 h), hp1, hw2, hq3, hq1]

/-! ### Bounds on the intermediates of q3 -/

/-- `x` is finite, and at most `2 ^ e` in magnitude. -/
structure AtMostPow (e : Nat) (x : F64) : Prop where
  finite : isFinite x = true
  le : magUnits x ≤ 2 ^ e * oneUnits

theorem oneUnits_pos : 0 < oneUnits := by decide +kernel

theorem pow_mul_oneUnits (e : Nat) : 2 ^ e * oneUnits = 2 ^ (e + 1074) := by rw [Nat.pow_add]

theorem pow_mul_oneUnits_mul_pow (e f : Nat) :
    2 ^ e * oneUnits * (2 ^ f * oneUnits) = 2 ^ (e + f) * oneUnits * oneUnits := by
  rw [Nat.mul_mul_mul_comm, Nat.pow_add, Nat.mul_assoc (2 ^ e * 2 ^ f)]

section
variable {e f g : Nat} {x y : F64}

/-- How the bounds of Laws/Float64.lean, which count units, are read. -/
theorem AtMostPow.of_units (h : isFinite x = true ∧ magUnits x ≤ 2 ^ (e + 1074)) : AtMostPow e x :=
  ⟨h.1, h.2.trans_eq (pow_mul_oneUnits e).symm⟩

theorem atMostPow_f64 {n : Int} (hn : n.natAbs ≤ 2 ^ e) (he : e ≤ 52) : AtMostPow e (f64 n) := by
  have hexact : n.natAbs < 2 ^ 53 :=
    lt_of_le_of_lt hn (Nat.pow_lt_pow_right Nat.one_lt_two (Nat.lt_succ_of_le he))
  refine ⟨isFinite_f64 hexact, ?_⟩
  rw [magUnits_f64 hexact]
  exact Nat.mul_le_mul_right _ hn

theorem AtMostPow.mono (hx : AtMostPow e x) (h : e ≤ g) : AtMostPow g x :=
  ⟨hx.finite, hx.le.trans (Nat.mul_le_mul_right _ (Nat.pow_le_pow_right Nat.two_pos h))⟩

/-- Two values of at most `2 ^ e` have at most `2 ^ (e + 1)` together. -/
theorem AtMostPow.magUnits_add_le (hx : AtMostPow e x) (hy : AtMostPow e y) :
    magUnits x + magUnits y ≤ 2 ^ (e + 1 + 1074) := by
  rw [← pow_mul_oneUnits, Nat.pow_succ, Nat.mul_two, Nat.add_mul]
  exact Nat.add_le_add hx.le hy.le

theorem AtMostPow.add (hx : AtMostPow e x) (hy : AtMostPow e y) (he : e ≤ 1022) : AtMostPow (e + 1) (fAdd x y) :=
  .of_units (fAdd_le_pow hx.finite hy.finite (by omega) (by omega) (hx.magUnits_add_le hy))

theorem AtMostPow.sub (hx : AtMostPow e x) (hy : AtMostPow e y) (he : e ≤ 1022) : AtMostPow (e + 1) (fSub x y) :=
  .of_units (fSub_le_pow hx.finite hy.finite (by omega) (by omega) (hx.magUnits_add_le hy))

theorem AtMostPow.mul (hx : AtMostPow e x) (hy : AtMostPow f y) (h : e + f ≤ 1023) : AtMostPow (e + f) (fMul x y) := by
  refine .of_units (fMul_le_pow hx.finite hy.finite (by omega) (by omega) ?_)
  calc magUnits x * magUnits y ≤ 2 ^ e * oneUnits * (2 ^ f * oneUnits) := Nat.mul_le_mul hx.le hy.le
    _ = 2 ^ (e + f) * oneUnits * oneUnits := pow_mul_oneUnits_mul_pow e f
    _ = 2 ^ (e + f + 1074) * oneUnits := by rw [pow_mul_oneUnits]

/-- Division by the literal `2 ^ k` takes `k` off the exponent. -/
theorem AtMostPow.div_pow {k : Nat} (hx : AtMostPow (e + k) x) (hk : k ≤ 52) (he : e ≤ 1023) :
    AtMostPow e (fDiv x (f64Lit (2 ^ k) 1)) := by
  have hexact : ((2 ^ k : Nat) : Int).natAbs < 2 ^ 53 := by
    rw [Int.natAbs_natCast]
    exact Nat.pow_lt_pow_right Nat.one_lt_two (Nat.lt_succ_of_le hk)
  have hunits : magUnits (f64 ((2 ^ k : Nat) : Int)) = 2 ^ k * oneUnits := by
    rw [magUnits_f64 hexact, Int.natAbs_natCast]
  have hpos : magUnits (f64 ((2 ^ k : Nat) : Int)) ≠ 0 := by
    rw [hunits]
    exact (Nat.mul_pos (Nat.two_pow_pos k) oneUnits_pos).ne'
  rw [f64Lit_den_one]
  refine .of_units (fDiv_le_pow hx.finite (isFinite_f64 hexact) hpos (by omega) (by omega) ?_)
  calc magUnits x * oneUnits ≤ 2 ^ (e + k) * oneUnits * oneUnits := Nat.mul_le_mul_right _ hx.le
    _ = 2 ^ e * oneUnits * (2 ^ k * oneUnits) := (pow_mul_oneUnits_mul_pow e k).symm
    _ = 2 ^ (e + 1074) * magUnits (f64 ((2 ^ k : Nat) : Int)) := by rw [hunits, pow_mul_oneUnits]

/-- Both associations of a coefficient times a square keep the same bound (44_compensation.md R244). -/
theorem AtMostPow.sq (order : SquareOrder) (hx : AtMostPow e x) (hy : AtMostPow f y) (h : e + (f + f) ≤ 1023) :
    AtMostPow (e + (f + f)) (compSq order x y) := by
  cases order with
  | squareFirst => exact hx.mul (hy.mul hy (by omega)) h
  | leftToRight =>
    rw [← Nat.add_assoc]
    exact (hx.mul hy (by omega)).mul hy (by omega)

end

theorem atMostPow_unsignedCoeff {v : Int} (h : u16Range v) : AtMostPow 16 (f64 v) :=
  atMostPow_f64 (by obtain ⟨hmin, hmax⟩ := h; omega) (by norm_num)

theorem atMostPow_signedCoeff {v : Int} (h : s16Range v) : AtMostPow 15 (f64 v) :=
  atMostPow_f64 (by obtain ⟨hmin, hmax⟩ := h; omega) (by norm_num)

theorem atMostPow_adcCode (adc : BitVec 20) : AtMostPow 20 (f64 adc.toNat) :=
  atMostPow_f64 (by rw [Int.natAbs_natCast]; exact adc.isLt.le) (by norm_num)

section
variable {c : Calib}

theorem compTv1_atMostPow (adcT : BitVec 20) (ht1 : u16Range c.t1) (ht2 : s16Range c.t2) :
    AtMostPow 22 (compTv1 adcT c) := by
  have hcode : AtMostPow 6 (fDiv (f64 adcT.toNat) (f64Lit 16384 1)) :=
    (atMostPow_adcCode adcT).div_pow (k := 14) (by norm_num) (by norm_num)
  have hbase : AtMostPow 6 (fDiv (f64 c.t1) (f64Lit 1024 1)) :=
    (atMostPow_unsignedCoeff ht1).div_pow (k := 10) (by norm_num) (by norm_num)
  rw [compTv1]
  exact (hcode.sub hbase (by norm_num)).mul (atMostPow_signedCoeff ht2) (by norm_num)

theorem tempDiff_atMostPow (adcT : BitVec 20) (ht1 : u16Range c.t1) : AtMostPow 4 (tempDiff adcT c) := by
  have hcode : AtMostPow 3 (fDiv (f64 adcT.toNat) (f64Lit 131072 1)) :=
    (atMostPow_adcCode adcT).div_pow (k := 17) (by norm_num) (by norm_num)
  have hbase : AtMostPow 3 (fDiv (f64 c.t1) (f64Lit 8192 1)) :=
    (atMostPow_unsignedCoeff ht1).div_pow (k := 13) (by norm_num) (by norm_num)
  rw [tempDiff]
  exact hcode.sub hbase (by norm_num)

theorem compTv2_atMostPow (adcT : BitVec 20) (ht1 : u16Range c.t1) (ht3 : s16Range c.t3) :
    AtMostPow 23 (compTv2 adcT c) := by
  have hdiff := tempDiff_atMostPow adcT ht1
  rw [compTv2_eq]
  exact (hdiff.mul hdiff (by norm_num)).mul (atMostPow_signedCoeff ht3) (by norm_num)

theorem compTfine_atMostPow (adcT : BitVec 20) (hc : c.InRange) : AtMostPow 24 (compTfine adcT c) := by
  obtain ⟨ht1, ht2, ht3, -⟩ := hc
  rw [compTfine]
  exact ((compTv1_atMostPow adcT ht1 ht2).mono (by norm_num)).add (compTv2_atMostPow adcT ht1 ht3) (by norm_num)

theorem compQ1_atMostPow {tFine : F64} (h : AtMostPow 24 tFine) : AtMostPow 24 (compQ1 tFine) := by
  have hhalf : AtMostPow 23 (fDiv tFine (f64Lit 2 1)) := h.div_pow (k := 1) (by norm_num) (by norm_num)
  have hoffset : AtMostPow 23 (f64Lit 64000 1) := by
    rw [f64Lit_den_one]
    exact atMostPow_f64 (by norm_num) (by norm_num)
  rw [compQ1]
  exact hhalf.sub hoffset (by norm_num)

theorem scaleTerm_atMostPow {q1 : F64} (order : SquareOrder) (hq1 : AtMostPow 24 q1) (hp2 : s16Range c.p2)
    (hp3 : s16Range c.p3) : AtMostPow 26 (scaleTerm order q1 c) := by
  have hsquare : AtMostPow 63 (compSq order (f64 c.p3) q1) := (atMostPow_signedCoeff hp3).sq order hq1 (by norm_num)
  have ha : AtMostPow 44 (fDiv (compSq order (f64 c.p3) q1) (f64Lit 524288 1)) :=
    hsquare.div_pow (k := 19) (by norm_num) (by norm_num)
  have hlinear : AtMostPow 39 (fMul (f64 c.p2) q1) := (atMostPow_signedCoeff hp2).mul hq1 (by norm_num)
  have hsum := ha.add (hlinear.mono (g := 44) (by norm_num)) (by norm_num)
  rw [scaleTerm]
  exact hsum.div_pow (k := 19) (by norm_num) (by norm_num)

/-- In range the factor of `q3` is finite, so a zero P1 gives a zero product and not a NaN. -/
theorem scaleFactor_atMostPow {q1 : F64} (order : SquareOrder) (hq1 : AtMostPow 24 q1) (hp2 : s16Range c.p2)
    (hp3 : s16Range c.p3) : AtMostPow 12 (scaleFactor order q1 c) := by
  have hone : AtMostPow 11 (f64Lit 1 1) := by
    rw [f64Lit_den_one]
    exact atMostPow_f64 (by norm_num) (by norm_num)
  have hratio : AtMostPow 11 (fDiv (scaleTerm order q1 c) (f64Lit 32768 1)) :=
    (scaleTerm_atMostPow order hq1 hp2 hp3).div_pow (k := 15) (by norm_num) (by norm_num)
  rw [scaleFactor]
  exact hone.add hratio (by norm_num)

end

/-! ### The degenerate path -/

/-- A product by an integer that is not zero does not underflow, so it is zero only when a factor is. -/
theorem magBits_fMul_f64_eq_zero {x : F64} {n : Int} (hx : isFinite x = true) (hn : n.natAbs < 2 ^ 53) :
    magBits (fMul x (f64 n)) = 0 ↔ n = 0 ∨ magBits x = 0 := by
  rw [fMul_finite hx (isFinite_f64 hn), magBits_packSign (roundBits_le_infBits _ _), magUnits_f64 hn]
  constructor
  · intro hround
    by_contra hne
    obtain ⟨hn0, hx0⟩ := not_or.1 hne
    have hunits : 0 < magUnits x := by
      rw [← natAbs_toUnits]
      exact Int.natAbs_pos.2 (mt (toUnits_eq_zero x).1 hx0)
    have hone : 1 ≤ roundBits (magUnits x * (n.natAbs * oneUnits)) oneUnits := by
      refine le_roundBits_of_le oneUnits_pos (by decide) ?_
      rw [← Nat.mul_assoc]
      exact Nat.mul_le_mul_right _ (Nat.mul_pos hunits (Int.natAbs_pos.2 hn0))
    omega
  · rintro (rfl | hx0)
    · rw [Int.natAbs_zero, Nat.zero_mul, Nat.mul_zero, roundBits_zero]
    · rw [magUnits, hx0, unitsOfBits_zero, Nat.zero_mul, roundBits_zero]

/-- The two ways in which `q3` is zero (44_compensation.md R252). -/
theorem fEq_compQ3_zero_iff {order : SquareOrder} {q1 : F64} {c : Calib} (hq1 : AtMostPow 24 q1) (hc : c.InRange) :
    fEq (compQ3 order q1 c) fZero = true ↔ c.p1 = 0 ∨ fEq (scaleFactor order q1 c) fZero = true := by
  obtain ⟨-, -, -, ⟨hmin, hmax⟩, hp2, hp3, -⟩ := hc
  have hfinite := (scaleFactor_atMostPow order hq1 hp2 hp3).finite
  rw [fEq_zero_iff, fEq_zero_iff, compQ3_eq, magBits_fMul_f64_eq_zero hfinite (by omega)]

/-- By R247 (a) the power of a zero pressure is zero, which leaves 44330.0. -/
theorem compAltitude_zero {pow : F64 → F64 → F64} (hpow : PowConforming pow) :
    compAltitude pow fZero = 0x40E5A54000000000#64 := by
  have hratio : fDiv fZero (f64Lit 101325 100) = fZero := by decide +kernel
  have hformula : altitudeFormula fZero = 0x40E5A54000000000#64 := by decide +kernel
  rw [compAltitude, hratio, hpow.zero, hformula]

/-- The outputs of the degenerate path (44_compensation.md R252). -/
theorem compensateWith_of_degenerate {order : SquareOrder} {pow : F64 → F64 → F64} {adcT adcP : BitVec 20} {c : Calib}
    (hpow : PowConforming pow) (h : (compensateWith order pow adcT adcP c).degenerate = true) :
    (compensateWith order pow adcT adcP c).pressure = fZero ∧
      (compensateWith order pow adcT adcP c).altitude = 0x40E5A54000000000#64 ∧
      (compensateWith order pow adcT adcP c).altInvalid = false := by
  have hpressure : (compensateWith order pow adcT adcP c).pressure = fZero := by
    rw [compensateWith_pressure, if_pos h]
  have halt : (compensateWith order pow adcT adcP c).altInvalid = false := by
    rw [compensateWith_altInvalid, hpressure]
    decide
  refine ⟨hpressure, ?_, halt⟩
  rw [compensateWith_altitude, halt, hpressure, if_neg Bool.false_ne_true, compAltitude_zero hpow]

/-- Settles O59: the factor is finite, so `q3` is zero exactly when P1 or the factor is, and a pressure of +0.0 is
not negative. -/
theorem degeneratePathIsExactlyItsTwoCases : Obligations.DegeneratePathIsExactlyItsTwoCases := by
  rintro order pow adcT adcP c res q1 a q2 factor hpow hc rfl hq1 rfl hq2 hfactor
  rw [compensateWith_tFine, ← compQ1_eq] at hq1
  rw [← scaleTerm_eq] at hq2
  rw [hq2, ← scaleFactor_eq] at hfactor
  have hdegen : (compensateWith order pow adcT adcP c).degenerate = fEq (compQ3 order q1 c) fZero := by
    rw [compensateWith_degenerate, hq1]
  have hbound : AtMostPow 24 q1 := hq1 ▸ compQ1_atMostPow (compTfine_atMostPow adcT hc)
  refine ⟨?q3, ?twoCases, ?exclusive, compensateWith_of_degenerate hpow⟩
  case q3 => rw [hdegen, compQ3_eq, hfactor]; rfl
  case twoCases => rw [hdegen, hfactor]; exact fEq_compQ3_zero_iff hbound hc
  case exclusive =>
    rintro ⟨hdeg, halt⟩
    obtain ⟨-, -, hnot⟩ := compensateWith_of_degenerate hpow hdeg
    exact Bool.false_ne_true (hnot.symm.trans halt)

/-! ### The reference example (44_compensation.md R253), one function of the engine at a time -/

/-- The calibration of the reference example. -/
def exampleCalib : Calib :=
  { t1 := 27504, t2 := 26435, t3 := -1000, p1 := 36477, p2 := -10685, p3 := 3024, p4 := 2855, p5 := 140, p6 := -7,
    p7 := 15500, p8 := -14600, p9 := 6000 }

theorem compTfine_example : compTfine 519888 exampleCalib = 0x40FF5A6497936000#64 := by decide +kernel

theorem compTemperature_example : compTemperature 0x40FF5A6497936000#64 = 0x4039151D460F8000#64 := by decide +kernel

theorem compQ1_example : compQ1 0x40FF5A6497936000#64 = 0x406A649793600000#64 := by decide +kernel

theorem compW2_example : compW2 0x406A649793600000#64 exampleCalib = 0x41A64E7373541DB7#64 := by decide +kernel

/-- Both orders of the square give these bits. -/
theorem compQ3_example (order : SquareOrder) :
    compQ3 order 0x406A649793600000#64 exampleCalib = 0x40E1CF06BB58E5F7#64 := by
  cases order <;> decide +kernel

theorem compP1_example :
    compP1 415148 0x41A64E7373541DB7#64 0x40E1CF06BB58E5F7#64 = 0x40F896DD876566FD#64 := by decide +kernel

theorem compPressure_example (order : SquareOrder) :
    compPressure order 0x40F896DD876566FD#64 exampleCalib = 0x408F7442E7504A97#64 := by
  cases order <;> decide +kernel

theorem compensateWith_example_degenerate (order : SquareOrder) (pow : F64 → F64 → F64) :
    (compensateWith order pow 519888 415148 exampleCalib).degenerate = false := by
  rw [compensateWith_degenerate, compTfine_example, compQ1_example, compQ3_example]
  decide

theorem compensateWith_example_pressure (order : SquareOrder) (pow : F64 → F64 → F64) :
    (compensateWith order pow 519888 415148 exampleCalib).pressure = 0x408F7442E7504A97#64 := by
  rw [compensateWith_pressure, compensateWith_example_degenerate, if_neg Bool.false_ne_true, compTfine_example,
    compQ1_example, compW2_example, compQ3_example, compP1_example, compPressure_example]

/-- The rule's decimals of the temperature and the pressure round to the example's bits. -/
theorem f64Lit_example :
    f64Lit 2508247793081682 100000000000000 = 0x4039151D460F8000#64 ∧
      f64Lit 10065326677582515 10000000000000 = 0x408F7442E7504A97#64 := by decide +kernel

/-- The example's temperature is within 0.1% of 25.08. -/
theorem temperature_example_tolerance :
    (toUnits 0x4039151D460F8000#64 * 100 - 2508 * 2 ^ 1074).natAbs * 1000 ≤ 2508 * 2 ^ 1074 := by decide +kernel

/-- The example's pressure is between 0.645% and 0.655% away from 1000. -/
theorem pressure_example_error :
    645 * 2 ^ 1074 < (toUnits 0x408F7442E7504A97#64 - 1000 * 2 ^ 1074).natAbs * 100 ∧
      (toUnits 0x408F7442E7504A97#64 - 1000 * 2 ^ 1074).natAbs * 100 < 655 * 2 ^ 1074 := by decide +kernel

/-- Settles O56: the functions of the engine run one after the other on the example. -/
theorem referenceExampleGivesTheseBits : Obligations.ReferenceExampleGivesTheseBits := by
  rintro order pow res rfl
  rw [← exampleCalib]
  have htemp : (compensateWith order pow 519888 415148 exampleCalib).temperature = 0x4039151D460F8000#64 := by
    rw [compensateWith_temperature, compTfine_example, compTemperature_example]
  have hpress := compensateWith_example_pressure order pow
  have halt : (compensateWith order pow 519888 415148 exampleCalib).altInvalid = false := by
    rw [compensateWith_altInvalid, hpress]
    decide
  obtain ⟨hlitTemp, hlitPress⟩ := f64Lit_example
  obtain ⟨hlow, hhigh⟩ := pressure_example_error
  rw [compensateWith_tFine, compTfine_example, htemp, hpress, hlitTemp, hlitPress]
  exact ⟨rfl, rfl, rfl, compensateWith_example_degenerate order pow, halt, rfl, rfl,
    temperature_example_tolerance, hlow, hhigh⟩

end Sys2Proof.Machine

/-! The statements on the completion codes (60_exceptions.md R265, R269). -/

namespace Sys2Proof.Machine

/-! ### Illegal words -/

/-- A step of the engine is its turn, also where no event is left and so none is taken from the agenda. -/
theorem step_of_engineNext {s : State} (h : EngineNext s) : step s = engineTurn (turnTaken s) := by
  obtain ⟨hwf, -, hnone | ⟨rest, hengine⟩⟩ := h
  case inl =>
    have hkept : turnTaken s = s := by rw [turnTaken, hnone, List.tail_nil, ← hnone]
    rw [hkept, step_of_wf hwf, takeTurn, hnone]
  case inr =>
    rw [step_of_eventNext ⟨hwf, hengine⟩, perform, turnTaken, hengine, List.tail_cons]

/-- The decoder rejects exactly the words that are none of the twelve (30_encoding.md R114). -/
theorem decode_eq_error_iff {w : Word} : (∃ e, decode w = .error e) ↔ ∀ i, w ≠ encode i := by
  simp only [ne_eq, ← decode_eq_ok_iff]
  cases decode w <;> simp

theorem engineTurn_of_illegal {s : State} (hbusy : s.status.busy = true) (hillegal : ∀ i, s.latch.lcmd ≠ encode i) :
    engineTurn s = .next (complete .illegalCommand s) := by
  obtain ⟨e, herror⟩ := decode_eq_error_iff.mpr hillegal
  rw [engineTurn, if_pos hbusy, engineRun, herror, illegalCommand]

theorem step_of_illegal {s : State} (hnext : EngineNext s) (hillegal : ∀ i, s.latch.lcmd ≠ encode i) :
    step s = .next (afterCompletion .illegalCommand (turnTaken s)) := by
  have ⟨_, hbusy, _⟩ := hnext
  rw [step_of_engineNext hnext, engineTurn_of_illegal (s := turnTaken s) hbusy hillegal, complete_eq_afterCompletion]

/-! ### A command completes with a code of its row -/

/-- A command leaves the state as it is, or ends in a completion record with a code that R269 lists for it. -/
theorem exec_unchanged_or_complete {i : Instr} {s t : State} (h : exec i s = .next t) :
    t = s ∨ ∃ code ∈ possibleCodes i, ∃ u, t = complete code u := by
  cases i with
  | nop | decBeu16 | decBes16 | decLeu16 | decLes16 | decU20 => cases h; exact .inr ⟨.ok, by decide, _, rfl⟩
  | magStart =>
    rcases execMagStart_cases h with ⟨-, rfl⟩ | ⟨-, -, rfl⟩ | ⟨rest, -, rfl⟩ | ⟨rest, -, rfl⟩
    case inr.inl => exact .inl rfl
    all_goals exact .inr ⟨_, by decide, _, rfl⟩
  | magRead =>
    rcases execMagRead_cases h with ⟨-, rfl⟩ | ⟨-, -, rfl⟩ | ⟨rest, -, rfl⟩ | ⟨rest, b, -, rfl⟩
    case inr.inl => exact .inl rfl
    all_goals exact .inr ⟨_, by decide, _, rfl⟩
  | baroConfigure =>
    rcases execBaroConfigure_cases h with ⟨-, rfl⟩ | ⟨rest, rfl⟩ | ⟨rest, rest', rfl⟩ | ⟨rest, rest', rfl⟩
    case inl => exact .inl rfl
    all_goals exact .inr ⟨_, by decide, _, rfl⟩
  | baroLoadCal =>
    rcases execBaroLoadCal_cases h with ⟨-, rfl⟩ | ⟨-, -, rfl⟩ | ⟨rest, -, rfl⟩ | ⟨rest, b, -, rfl⟩
    case inr.inl => exact .inl rfl
    all_goals exact .inr ⟨_, by decide, _, rfl⟩
  | baroRead =>
    rcases execBaroRead_cases h with ⟨-, rfl⟩ | ⟨-, -, rfl⟩ | ⟨rest, -, rfl⟩ | ⟨rest, b, -, rfl⟩
    case inr.inl => exact .inl rfl
    all_goals exact .inr ⟨_, by decide, _, rfl⟩
  | baroCompensate =>
    rcases execBaroCompensate_cases h with ⟨-, rfl⟩ | ⟨-, rfl⟩
    all_goals exact .inr ⟨_, by decide, _, rfl⟩

/-- A step from BUSY = 1 to BUSY = 0 is no wait, so the code it leaves is that of a completion. -/
theorem exec_err_mem_possibleCodes {i : Instr} {s t : State} (hbusy : s.status.busy = true) (h : exec i s = .next t)
    (hdone : t.status.busy = false) : t.status.err ∈ possibleCodes i := by
  rcases exec_unchanged_or_complete h with rfl | ⟨code, hcode, u, rfl⟩
  · rw [hbusy] at hdone
    cases hdone
  · exact hcode

/-- No command completes with ILLEGAL_COMMAND (60_exceptions.md R265). -/
theorem illegalCommand_not_mem_possibleCodes (i : Instr) : .illegalCommand ∉ possibleCodes i := by
  cases i <;> decide

/-- Settles O4: the decoder rejects the word before any command runs, and a command's own codes leave ILLEGAL_COMMAND
out. -/
theorem illegalWordsOnlyComplete : Obligations.IllegalWordsOnlyComplete := by
  refine ⟨fun s => step_of_illegal, fun s t hnext hstep hdone => ⟨fun herr => ?raised, fun hillegal => ?illegal⟩⟩
  case raised =>
    rw [step_of_engineNext hnext] at hstep
    obtain ⟨-, hbusy, -⟩ := hnext
    rcases engineTurn_cases hstep with ⟨hidle, -⟩ | ⟨-, i, -, hexec⟩ | ⟨-, herror, -⟩
    · exact absurd (hbusy.symm.trans hidle) (by decide)
    · have hmem := exec_err_mem_possibleCodes (s := turnTaken s) hbusy hexec hdone
      rw [herr] at hmem
      exact absurd hmem (illegalCommand_not_mem_possibleCodes i)
    · exact decode_eq_error_iff.mp herror
  case illegal =>
    rw [step_of_illegal hnext hillegal] at hstep
    cases hstep
    rfl

/-! ### Every code of a row occurs -/

/-- Command `i` completes with `code` in some state that runs it. -/
def CanCompleteWith (i : Instr) (code : ErrCode) : Prop :=
  ∃ s t, s.status.busy = true ∧ exec i s = .next t ∧ t.status.busy = false ∧ t.status.err = code

/-- A command that ends in a completion record on one of its paths; `hmeaning` is its arm of `exec`. -/
theorem CanCompleteWith.of_path {i : Instr} {code : ErrCode} {s u : State} {r : StepResult}
    (hmeaning : exec i s = r) (hbusy : s.status.busy = true) (hpath : r = .next (complete code u)) :
    CanCompleteWith i code :=
  ⟨s, complete code u, hbusy, hmeaning.trans hpath, rfl, rfl⟩

/-- The block after reset with a command accepted, its sequencers in these states and these answers on the bus. -/
def busyBlock (m : MagState) (b : BaroState) (answers : List BusAnswer) : State :=
  { State.reset with status := { Status.reset with busy := true, magState := m, baroState := b }, busIn := answers }

/-- A full frame of `n` zero bytes. -/
def zeroFrame (n : Nat) : Vector Byte n := Vector.replicate n 0

/-- Every code of every row of R269 occurs, each on the path of its command that ends in it. -/
theorem canCompleteWith_of_mem {i : Instr} {code : ErrCode} (h : code ∈ possibleCodes i) : CanCompleteWith i code := by
  cases i <;> simp only [possibleCodes, List.mem_cons, List.not_mem_nil, or_false] at h
  case nop | decBeu16 | decBes16 | decLeu16 | decLes16 | decU20 =>
    subst h
    exact .of_path (s := busyBlock .idle .uninit []) rfl rfl rfl
  case magStart =>
    rcases h with rfl | rfl | rfl
    · exact .of_path (exec_magStart (busyBlock .idle .uninit [.responds []])) rfl (execMagStart_acknowledged rfl rfl)
    · exact .of_path (exec_magStart (busyBlock .idle .uninit [.fails])) rfl (execMagStart_failed rfl rfl)
    · exact .of_path (exec_magStart (busyBlock .measuringRequested .uninit [])) rfl
        (execMagStart_of_not_idle (by decide))
  case magRead =>
    rcases h with rfl | rfl | rfl
    · exact .of_path (exec_magRead (busyBlock .measuringRequested .uninit [.responds (zeroFrame magFrameLen).toList])) rfl
        (execMagRead_of_data rfl rfl (toRead_toList _))
    · exact .of_path (exec_magRead (busyBlock .measuringRequested .uninit [.fails])) rfl
        (execMagRead_of_err rfl rfl (toRead_fails _))
    · exact .of_path (exec_magRead (busyBlock .idle .uninit [])) rfl (execMagRead_of_not_requested (by decide))
  case baroConfigure =>
    rcases h with rfl | rfl
    · exact .of_path (exec_baroConfigure (busyBlock .idle .uninit [.responds [], .responds []])) rfl
        (execBaroConfigure_acknowledged rfl)
    · exact .of_path (exec_baroConfigure (busyBlock .idle .uninit [.fails])) rfl (execBaroConfigure_control_failed rfl)
  case baroLoadCal =>
    rcases h with rfl | rfl | rfl
    · exact .of_path (exec_baroLoadCal (busyBlock .idle .configured [.responds (zeroFrame calLen).toList])) rfl
        (execBaroLoadCal_of_data (by decide) rfl (toRead_toList _))
    · exact .of_path (exec_baroLoadCal (busyBlock .idle .configured [.fails])) rfl
        (execBaroLoadCal_of_err (by decide) rfl (toRead_fails _))
    · exact .of_path (exec_baroLoadCal (busyBlock .idle .uninit [])) rfl (execBaroLoadCal_of_uninit rfl)
  case baroRead =>
    rcases h with rfl | rfl | rfl
    · exact .of_path (exec_baroRead (busyBlock .idle .ready [.responds (zeroFrame dataLen).toList])) rfl
        (execBaroRead_of_data rfl rfl (toRead_toList _))
    · exact .of_path (exec_baroRead (busyBlock .idle .ready [.fails])) rfl (execBaroRead_of_err rfl rfl (toRead_fails _))
    · exact .of_path (exec_baroRead (busyBlock .idle .uninit [])) rfl (execBaroRead_of_not_ready (by decide))
  case baroCompensate =>
    rcases h with rfl | rfl
    · exact .of_path (exec_baroCompensate (busyBlock .idle .ready [])) rfl (execBaroCompensate_of_ready rfl)
    · exact .of_path (exec_baroCompensate (busyBlock .idle .uninit [])) rfl (execBaroCompensate_of_not_ready (by decide))

/-- Settles O29, from what every command can do, one state per code of the table, and the step on an illegal word. -/
theorem completionCodesAreThoseOfTheTable : Obligations.CompletionCodesAreThoseOfTheTable :=
  ⟨fun _ _ _ => exec_err_mem_possibleCodes, fun _ _ => canCompleteWith_of_mem,
    fun _ hnext hillegal => ⟨_, step_of_illegal hnext hillegal, rfl, rfl⟩⟩

end Sys2Proof.Machine

/-! What a command and a step of the machine can do, as one relation each: `CommandPath` has a constructor for each kind of
path through the commands, `StepPath` one for each kind of step. The statements on what every command and every step keeps
are case splits over them. -/

namespace Sys2Proof.Machine

/-! ### The paths of the commands -/

/-- The field-decoder commands (41_codec.md R165 to R169). -/
def fieldDecoders : List Instr := [.decBeu16, .decBes16, .decLeu16, .decLes16, .decU20]

/-- The two initialisation commands of the barometer, whose failure drops the sequencer (60_exceptions.md R272). -/
def initCommands : List Instr := [.baroConfigure, .baroLoadCal]

/-- The two commands that run the compensation engine (44_compensation.md R249). -/
def compensations : List Instr := [.baroRead, .baroCompensate]

/-- The state after some traffic on the sensor bus: only the answers and the history may differ. -/
abbrev afterTraffic (answers : List BusAnswer) (history : List BusEntry) (s : State) : State :=
  { s with busIn := answers, history := history }

/-- The ways a command can run from `s`, each with its next state: it waits, it is refused by its state check, or it runs to
its completion. Traffic is given in full only where a reading rests on it. -/
inductive CommandPath (s : State) : Instr → State → Prop where
  | waits {i : Instr} (hwait : Waiting i s s) : CommandPath s i s
  | refused {i : Instr} {code : ErrCode} (hstate : code = .invalidState ∨ code = .notInitialized)
      (hcode : code ∈ possibleCodes i) : CommandPath s i (complete code s)
  | nop : CommandPath s .nop (complete .ok s)
  | decoded {i : Instr} (hi : i ∈ fieldDecoders) (v : Word) : CommandPath s i (complete .ok (writeRes0 v s))
  | magStartFailed (answers : List BusAnswer) (history : List BusEntry) :
      CommandPath s .magStart (complete .deviceUnresponsive (afterTraffic answers history s))
  | magStarted (answers : List BusAnswer) (history : List BusEntry) :
      CommandPath s .magStart
        (complete .ok (setMagRv false (setMagState .measuringRequested (afterTraffic answers history s))))
  | magReadFailed (answers : List BusAnswer) (history : List BusEntry) :
      CommandPath s .magRead
        (complete .sensorUnavailable (setMagRv false (setMagState .idle (afterTraffic answers history s))))
  | magFrame (answers : List BusAnswer) (b : Vector Byte magFrameLen) :
      CommandPath s .magRead (complete .ok (magReadFrame b
        (afterTransaction answers (.r Config.magBusAddr Config.magCmdRead magFrameLen (.data b.toList)) s)))
  | initFailed {i : Instr} (hi : i ∈ initCommands) (answers : List BusAnswer) (history : List BusEntry) :
      CommandPath s i (complete .deviceUnresponsive (dropToUninit (afterTraffic answers history s)))
  | configured (answers : List BusAnswer) (history : List BusEntry) :
      CommandPath s .baroConfigure
        (complete .ok (setBaroState (configuredState s.status.baroState) (afterTraffic answers history s)))
  | calLoaded (answers : List BusAnswer) (b : Vector Byte calLen) :
      CommandPath s .baroLoadCal (complete .ok (setBaroState .ready (writeCal (calParse b)
        (afterTransaction answers (.r Config.baroBusAddr Config.baroRegCalib calLen (.data b.toList)) s))))
  | baroReadFailed (answers : List BusAnswer) (history : List BusEntry) :
      CommandPath s .baroRead (complete .sensorUnavailable (setBaroRv false (afterTraffic answers history s)))
  | compensated {i : Instr} (hi : i ∈ compensations) (hready : s.status.baroState = .ready) (adcT adcP : BitVec 20)
      (answers : List BusAnswer) (history : List BusEntry) :
      CommandPath s i (complete .ok (compensateAndWrite adcT adcP (afterTraffic answers history s)))

/-- Every run of a command is along one of the paths. -/
theorem exec_path {i : Instr} {s t : State} (h : exec i s = .next t) : CommandPath s i t := by
  cases i with
  | nop => cases h; exact .nop
  | decBeu16 | decBes16 | decLeu16 | decLes16 | decU20 => cases h; exact .decoded (by decide) _
  | magStart =>
    rcases execMagStart_cases h with ⟨-, rfl⟩ | ⟨-, hbus, rfl⟩ | ⟨rest, -, rfl⟩ | ⟨rest, -, rfl⟩
    · exact .refused (.inl rfl) (by decide)
    · exact .waits ⟨rfl, rfl, .inl hbus⟩
    · exact .magStartFailed _ _
    · exact .magStarted _ _
  | magRead =>
    rcases execMagRead_cases h with ⟨-, rfl⟩ | ⟨-, hbus, rfl⟩ | ⟨rest, -, rfl⟩ | ⟨rest, b, -, rfl⟩
    · exact .refused (.inl rfl) (by decide)
    · exact .waits ⟨rfl, rfl, .inl hbus⟩
    · exact .magReadFailed _ _
    · exact .magFrame _ b
  | baroConfigure =>
    rcases execBaroConfigure_cases h with ⟨hbus | hbus, rfl⟩ | ⟨rest, rfl⟩ | ⟨rest, rest', rfl⟩ | ⟨rest, rest', rfl⟩
    · exact .waits ⟨rfl, rfl, .inl hbus⟩
    · exact .waits ⟨rfl, rfl, .inr ⟨rfl, hbus⟩⟩
    · exact .initFailed (by decide) _ _
    · exact .initFailed (by decide) _ _
    · exact .configured _ _
  | baroLoadCal =>
    rcases execBaroLoadCal_cases h with ⟨-, rfl⟩ | ⟨-, hbus, rfl⟩ | ⟨rest, -, rfl⟩ | ⟨rest, b, -, rfl⟩
    · exact .refused (.inl rfl) (by decide)
    · exact .waits ⟨rfl, rfl, .inl hbus⟩
    · exact .initFailed (by decide) _ _
    · exact .calLoaded _ b
  | baroRead =>
    rcases execBaroRead_cases h with ⟨-, rfl⟩ | ⟨-, hbus, rfl⟩ | ⟨rest, -, rfl⟩ | ⟨rest, b, hready, rfl⟩
    · exact .refused (.inr rfl) (by decide)
    · exact .waits ⟨rfl, rfl, .inl hbus⟩
    · exact .baroReadFailed _ _
    · exact .compensated (by decide) hready _ _ _ _
  | baroCompensate =>
    rcases execBaroCompensate_cases h with ⟨-, rfl⟩ | ⟨hready, rfl⟩
    · exact .refused (.inr rfl) (by decide)
    · exact .compensated (by decide) hready _ _ s.busIn s.history

/-- Every command answers a next state (60_exceptions.md R269: none faults). -/
theorem exec_total (i : Instr) (s : State) : ∃ t, exec i s = .next t := by
  cases i with
  | nop | decBeu16 | decBes16 | decLeu16 | decLes16 | decU20 => exact ⟨_, rfl⟩
  | magStart => rw [exec_magStart, execMagStart]; split <;> [skip; split] <;> exact ⟨_, rfl⟩
  | magRead => rw [exec_magRead, execMagRead]; split <;> [skip; split] <;> exact ⟨_, rfl⟩
  | baroConfigure =>
    rw [exec_baroConfigure, execBaroConfigure]
    split <;> [skip; skip; split] <;> exact ⟨_, rfl⟩
  | baroLoadCal => rw [exec_baroLoadCal, execBaroLoadCal]; split <;> [skip; split] <;> exact ⟨_, rfl⟩
  | baroRead => rw [exec_baroRead, execBaroRead]; split <;> [skip; split] <;> exact ⟨_, rfl⟩
  | baroCompensate => rw [exec_baroCompensate, execBaroCompensate]; split <;> exact ⟨_, rfl⟩

/-! ### Rules over all commands -/

theorem ok_mem_possibleCodes_of_decoder : ∀ i ∈ fieldDecoders, .ok ∈ possibleCodes i := by decide

theorem ok_mem_possibleCodes_of_compensation : ∀ i ∈ compensations, .ok ∈ possibleCodes i := by decide

theorem unresponsive_mem_possibleCodes_of_init : ∀ i ∈ initCommands, .deviceUnresponsive ∈ possibleCodes i := by decide

/-- A path is a wait or ends in a completion with a code of the command's row (60_exceptions.md R269). -/
theorem CommandPath.completed_or_waiting {i : Instr} {s t : State} (h : CommandPath s i t) :
    (Completed t ∧ t.status.err ∈ possibleCodes i) ∨ Waiting i s t := by
  cases h with
  | waits hwait => exact .inr hwait
  | refused _ hcode => exact .inl ⟨⟨rfl, rfl⟩, hcode⟩
  | decoded hi v => exact .inl ⟨⟨rfl, rfl⟩, ok_mem_possibleCodes_of_decoder i hi⟩
  | initFailed hi => exact .inl ⟨⟨rfl, rfl⟩, unresponsive_mem_possibleCodes_of_init i hi⟩
  | compensated hi => exact .inl ⟨⟨rfl, rfl⟩, ok_mem_possibleCodes_of_compensation i hi⟩
  | nop | magStartFailed | magStarted | magReadFailed | magFrame | configured | calLoaded | baroReadFailed =>
    exact .inl ⟨⟨rfl, rfl⟩, by simp [possibleCodes]⟩

/-- Settles O28: a command answers along one of its paths. -/
theorem everyCommandCompletesOrWaits : Obligations.EveryCommandCompletesOrWaits := by
  intro i s
  obtain ⟨t, hexec⟩ := exec_total i s
  exact ⟨t, hexec, (exec_path hexec).completed_or_waiting⟩

/-- The fields that no command writes (40_control.md R147). -/
theorem CommandPath.unwritten {i : Instr} {s t : State} (h : CommandPath s i t) :
    t.arg0 = s.arg0 ∧ t.arg1 = s.arg1 ∧ t.status.cmdOvr = s.status.cmdOvr ∧ t.latch = s.latch ∧ t.agenda = s.agenda ∧
      t.hostReads = s.hostReads ∧ t.premise = s.premise := by
  cases h <;> simp

/-- Settles O31: of the paths with a code other than OK, only those of R272 write a field besides the completion record. -/
theorem failuresArePrecise : Obligations.FailuresArePrecise := by
  intro i s t hbusy hexec hdone herr
  cases exec_path hexec with
  | waits hwait => exact absurd (hbusy.symm.trans hdone) (by decide)
  | refused hstate hcode =>
    refine ⟨rfl, rfl, rfl, rfl, ?_⟩
    rcases hstate with rfl | rfl <;> simp [Status.completed]
  | magStartFailed => exact ⟨rfl, rfl, rfl, rfl, by simp [Status.completed]⟩
  | magReadFailed => exact ⟨rfl, rfl, rfl, rfl, by simp [Status.completed]⟩
  | initFailed hi =>
    have hinit : i = .baroConfigure ∨ i = .baroLoadCal := by simpa [initCommands] using hi
    refine ⟨rfl, rfl, rfl, rfl, ?_⟩
    simp [hinit, Status.completed, Status.uninitialized]
  | baroReadFailed => exact ⟨rfl, rfl, rfl, rfl, by simp [Status.completed]⟩
  | nop | decoded | magStarted | magFrame | configured | calLoaded | compensated => exact absurd rfl herr

/-- Settles O32: only a refused command completes with one of the two codes. -/
theorem stateCheckFailuresMakeNoTraffic : Obligations.StateCheckFailuresMakeNoTraffic := by
  intro i s t hbusy hexec hdone herr
  cases exec_path hexec with
  | waits hwait => exact absurd (hbusy.symm.trans hdone) (by decide)
  | refused hstate hcode => exact complete_eq_afterCompletion _ s
  | nop | decoded | magStartFailed | magStarted | magReadFailed | magFrame | initFailed | configured | calLoaded |
      baroReadFailed | compensated =>
    rcases herr with herr | herr <;> cases herr

/-! ### ARG0 and ARG1 are not read -/

/-- The state with other contents of ARG0 and ARG1. -/
abbrev withArgs (v0 v1 : Word) (s : State) : State := { s with arg0 := v0, arg1 := v1 }

/-- A transaction goes its way whatever ARG0 and ARG1 hold. -/
theorem busWrite_withArgs (addr : BusAddr) (p : BusPayload) (v0 v1 : Word) (s : State) :
    busWrite addr p (withArgs v0 v1 s) = (busWrite addr p s).map (Prod.map id (withArgs v0 v1)) := by
  cases hbus : s.busIn with
  | nil => rw [busWrite_nil.2 hbus, busWrite_nil.2 (show (withArgs v0 v1 s).busIn = [] from hbus)]; rfl
  | cons a rest => rw [busWrite_cons hbus, busWrite_cons (s := withArgs v0 v1 s) hbus]; rfl

theorem writeConfig_withArgs (v0 v1 : Word) (s : State) :
    writeConfig (withArgs v0 v1 s) = (writeConfig s).map (Prod.map id (withArgs v0 v1)) := busWrite_withArgs _ _ v0 v1 s

theorem busRead_withArgs (addr : BusAddr) (c : Byte) (n : Nat) (v0 v1 : Word) (s : State) :
    busRead addr c n (withArgs v0 v1 s) = (busRead addr c n s).map (Prod.map id (withArgs v0 v1)) := by
  cases hbus : s.busIn with
  | nil => rw [busRead_nil.2 hbus, busRead_nil.2 (show (withArgs v0 v1 s).busIn = [] from hbus)]; rfl
  | cons a rest => rw [busRead_cons hbus, busRead_cons (s := withArgs v0 v1 s) hbus]; rfl

/-- A command goes its way whatever ARG0 and ARG1 hold (40_control.md R142): its state check and its transactions answer the
same. -/
theorem exec_withArgs {i : Instr} {s t : State} (h : exec i s = .next t) (v0 v1 : Word) :
    exec i (withArgs v0 v1 s) = .next (withArgs v0 v1 t) := by
  cases i
  case nop | decBeu16 | decBes16 | decLeu16 | decLes16 | decU20 => cases h; rfl
  case magStart | magRead | baroLoadCal | baroRead =>
    simp only [exec_magStart, execMagStart, sendMagStart, exec_magRead, execMagRead, fetchMagFrame, exec_baroLoadCal,
      execBaroLoadCal, fetchCalBlock, exec_baroRead, execBaroRead, fetchDataBlock, busWrite_withArgs,
      busRead_withArgs] at h ⊢
    split at h
    case isTrue hstate => cases h; exact if_pos hstate
    case isFalse hstate =>
      rw [if_neg hstate]
      split at h <;> rename_i hb <;> cases h <;> rw [hb] <;> rfl
  case baroConfigure =>
    rw [exec_baroConfigure, execBaroConfigure, writeControl] at h ⊢
    rw [busWrite_withArgs]
    split at h <;> rename_i hcontrol <;> rw [hcontrol]
    · cases h; rfl
    · cases h; rfl
    · simp only [Option.map_some, Prod.map, id_eq, writeConfig_withArgs]
      split at h <;> rename_i hconfig <;> cases h <;> rw [hconfig]
      · rfl
      · rfl
      · simp only [Option.map_some, Prod.map, id_eq]
        split <;> rfl
  case baroCompensate =>
    rw [exec_baroCompensate, execBaroCompensate] at h ⊢
    split at h
    case isTrue hstate => cases h; exact if_pos hstate
    case isFalse hstate => cases h; exact if_neg hstate

/-- Settles O30: the first part by the paths, the second since neither the checks nor the transactions read an argument. -/
theorem commandsNeitherReadNorWriteArguments : Obligations.CommandsNeitherReadNorWriteArguments := by
  intro i s t hexec
  obtain ⟨harg0, harg1, hovr, hlatch, hagenda, hreads, -⟩ := (exec_path hexec).unwritten
  exact ⟨⟨harg0, harg1, hovr, hlatch, hagenda, hreads⟩, exec_withArgs hexec⟩

/-! ### Host writes by offset -/

theorem Reg.offset_of_ofOffset {n : Nat} {r : Reg} (h : Reg.ofOffset n = some r) : r.offset = n := by
  simpa using List.find?_some h

theorem eq_of_ofOffset {off : Word} {r : Reg} (h : Reg.ofOffset off.toNat = some r) : off = BitVec.ofNat 32 r.offset := by
  rw [Reg.offset_of_ofOffset h, BitVec.ofNat_toNat, BitVec.setWidth_eq]

/-! ### The kinds of steps -/

/-- The ways a step can run from `s`, each with its next state. `quiet` covers what reaches no register but ARG0 and ARG1:
host reads and other host writes, waiting, bus answers, another master's traffic and an idle engine's turn. -/
inductive StepPath (s : State) : State → Prop where
  | quiet (arg0 arg1 : Word) (answers : List BusAnswer) (reads : List HostReadRecord) :
      StepPath s { turnTaken s with arg0 := arg0, arg1 := arg1, busIn := answers, hostReads := reads }
  | accepted (w : Word) (rest : List Event) (hagenda : s.agenda = .hostWrite 0x004#32 4 w :: rest)
      (hidle : s.status.busy = false) : StepPath s (acceptCommand w (turnTaken s))
  | dropped (w : Word) (rest : List Event) (hagenda : s.agenda = .hostWrite 0x004#32 4 w :: rest)
      (hbusy : s.status.busy = true) : StepPath s (dropCommand (turnTaken s))
  | cleared (v : Word) (rest : List Event) (hagenda : s.agenda = .hostWrite 0x008#32 4 v :: rest) :
      StepPath s { turnTaken s with status := s.status.writeOneToClear v }
  | command {i : Instr} {t : State} (hnext : EngineNext s) (hword : s.latch.lcmd = encode i)
      (hexec : exec i (turnTaken s) = .next t) : StepPath s t
  | illegal (hnext : EngineNext s) : StepPath s (complete .illegalCommand (turnTaken s))
  | reset (rest : List Event) (hagenda : s.agenda = .reset :: rest) :
      StepPath s (resetBlock (abortCommand (turnTaken s)))

/-- A host write reaches CMD, STATUS, ARG0 or ARG1, or nothing (20_memory.md R84). -/
theorem StepPath.of_hostWrite {s : State} {off v : Word} {rest : List Event} (h : s.agenda = .hostWrite off 4 v :: rest) :
    StepPath s (writeOffset off v (turnTaken s)) := by
  unfold writeOffset
  split
  next hreg =>
    obtain rfl := eq_of_ofOffset hreg
    cases hbusy : s.status.busy with
    | false => rw [writeCmd_of_idle (s := turnTaken s) hbusy]; exact .accepted v rest h hbusy
    | true => rw [writeCmd_of_busy (s := turnTaken s) hbusy]; exact .dropped v rest h hbusy
  next hreg =>
    obtain rfl := eq_of_ofOffset hreg
    exact .cleared v rest h
  next => exact .quiet v s.arg1 s.busIn s.hostReads
  next => exact .quiet s.arg0 v s.busIn s.hostReads
  next => exact .quiet s.arg0 s.arg1 s.busIn s.hostReads

/-- Every step that answers a next state is of one of the kinds. -/
theorem step_path {s t : State} (h : step s = .next t) : StepPath s t := by
  obtain ⟨hwf, hturn⟩ := step_next h
  rcases takeTurn_cases hturn with ⟨hagenda, hengine⟩ | ⟨off, bytes, rest, r, -, -, rfl⟩ |
    ⟨off, bytes, v, rest, hagenda, hshape, rfl⟩ | ⟨-, rfl⟩ | ⟨a, rest, -, rfl⟩ | ⟨rest, hagenda, rfl⟩
  case inl =>
    rcases engineTurn_cases hengine with ⟨-, rfl⟩ | ⟨hbusy, i, hdecode, hexec⟩ | ⟨hbusy, -, rfl⟩
    · exact .quiet s.arg0 s.arg1 s.busIn s.hostReads
    · exact .command ⟨hwf, hbusy, hagenda⟩ (eq_encode_of_decode_ok hdecode) hexec
    · exact .illegal ⟨hwf, hbusy, hagenda⟩
  case inr.inl => exact .quiet s.arg0 s.arg1 s.busIn _
  case inr.inr.inl =>
    obtain ⟨rfl, -⟩ := accessShapeOk_iff.1 hshape
    exact .of_hostWrite hagenda
  case inr.inr.inr.inl => exact .quiet s.arg0 s.arg1 s.busIn s.hostReads
  case inr.inr.inr.inr.inl => exact .quiet s.arg0 s.arg1 _ s.hostReads
  case inr.inr.inr.inr.inr => exact .reset rest hagenda

/-- Settles O3: the engine's turn decodes the latched word, which no agenda changes. -/
theorem stepRunsTheLatchedCommand : Obligations.StepRunsTheLatchedCommand := by
  intro s i _ hnext hdecode
  have ⟨_, hbusy, _⟩ := hnext
  rw [step_of_engineNext hnext, engineTurn, turnTaken_status, if_pos hbusy, engineRun, turnTaken_latch, hdecode]

theorem engineTurn_of_idle {s : State} (h : s.status.busy = false) : engineTurn s = .next s := by
  rw [engineTurn, h, if_neg Bool.false_ne_true]

/-- Settles O5: with BUSY = 0 the engine's turn, given or by fairness, changes nothing. -/
theorem idleEngineDoesNothing : Obligations.IdleEngineDoesNothing := by
  intro s hwf hidle
  refine ⟨fun hnone => ?noEvent, fun rest hengine => ?turn⟩
  case noEvent => rw [step_of_wf hwf, takeTurn, hnone]; exact engineTurn_of_idle hidle
  case turn =>
    rw [step_of_eventNext ⟨hwf, hengine⟩, perform]
    exact engineTurn_of_idle (s := { s with agenda := rest }) hidle

/-! ### Bus traffic -/

/-- What a command adds to the history are listed transactions. -/
theorem exec_history {i : Instr} {s t : State} (h : exec i s = .next t) :
    ∃ new, t.history = s.history ++ new ∧ new.length ≤ 2 ∧ (∀ e ∈ new, ListedTransaction e) ∧
      (∀ e ∈ new.dropLast, e.failed = false) := by
  by_cases hwait : t = s
  · exact ⟨[], by simp [hwait], by simp, by simp, by simp⟩
  · obtain ⟨new, rest, hrec, hlen, hlisted, hlast, -⟩ := recordCompleted_recorded i s
    refine ⟨new, ?_, hlen, hlisted, hlast⟩
    rw [(exec_traffic h hwait).1, hrec]

/-- Settles O33: a command and a reset append what `Recorded` allows, every other step nothing. -/
theorem busTrafficIsOnlyTheListedTransactions : Obligations.BusTrafficIsOnlyTheListedTransactions := by
  intro s t hstep
  cases step_path hstep with
  | quiet | accepted | dropped | cleared | illegal => exact ⟨[], by simp, by simp, by simp, by simp, by simp⟩
  | command hnext _ hexec =>
    obtain ⟨new, hhist, hlen, hlisted, hlast⟩ := exec_history hexec
    exact ⟨new, hhist, hlen, hlisted, hlast, fun _ => .inl hnext⟩
  | reset rest hagenda =>
    obtain ⟨⟨new, answers, habort, hlen, hlisted, hlast, -⟩, hidle⟩ := abortCommand_recorded (turnTaken s)
    refine ⟨new, by rw [resetBlock_history, habort]; rfl, hlen, hlisted, hlast, fun hne => .inr ⟨?_, rest, ?_⟩⟩
    · by_contra hbusy
      rw [hidle (Bool.eq_false_iff.2 hbusy)] at habort
      exact hne (List.self_eq_append_right.1 (congrArg State.history habort))
    · exact ⟨(step_next hstep).1, hagenda⟩

/-- The history only grows. -/
theorem step_history {s t : State} (h : step s = .next t) {e : BusEntry} (he : e ∈ s.history) : e ∈ t.history := by
  obtain ⟨new, hhist, -⟩ := busTrafficIsOnlyTheListedTransactions s t h
  rw [hhist]
  exact List.mem_append_left _ he

/-! ### Who may change what -/

/-- A command that leaves DONE or BUSY changed has completed. -/
theorem exec_done_busy {i : Instr} {s t : State} (h : exec i s = .next t) :
    t = s ∨ (t.status.done = true ∧ t.status.busy = false) := by
  rcases (exec_path h).completed_or_waiting with ⟨hdone, -⟩ | ⟨-, rfl, -⟩
  · exact .inr hdone
  · exact .inl rfl

/-- A bit that a step keeps is neither set nor cleared by it. -/
theorem of_kept {b b' v : Bool} {P : Prop} (hkept : b' = b) (hold : b = v) (hnew : b' = !v) : P := by
  rw [hkept, hold] at hnew
  cases v <;> cases hnew

/-- A bit cleared by a write of 1 was written with 1. -/
theorem of_cleared {b c : Bool} (hold : b = true) (hnew : (b && !c) = false) : c = true := by
  simpa [hold] using hnew

/-- No write of 1 sets a bit. -/
theorem not_set_by_clear {b c : Bool} {P : Prop} (hold : b = false) (hnew : (b && !c) = true) : P := by
  rw [hold] at hnew
  cases hnew

/-- Settles O34: by the kinds of steps; a command that waits leaves BUSY as it is. -/
theorem busyChangesOnlyAtAcceptanceAndCompletion : Obligations.BusyChangesOnlyAtAcceptanceAndCompletion := by
  intro s t hstep
  cases step_path hstep with
  | quiet | dropped | cleared => exact ⟨of_kept rfl, of_kept rfl⟩
  | accepted w rest hagenda hidle =>
    exact ⟨fun _ _ => ⟨w, rest, hagenda, rfl⟩, fun hbusy => absurd (hidle.symm.trans hbusy) Bool.false_ne_true⟩
  | reset rest hagenda => exact ⟨fun _ hbusy => (by cases hbusy), fun _ _ => .inl ⟨rest, hagenda⟩⟩
  | illegal hnext => exact ⟨fun _ hbusy => (by cases hbusy), fun _ _ => .inr ⟨hnext, rfl⟩⟩
  | command hnext _ hexec =>
    rcases exec_done_busy hexec with rfl | ⟨hdone, hidle⟩
    · exact ⟨of_kept rfl, of_kept rfl⟩
    · exact ⟨fun _ hbusy => absurd (hidle.symm.trans hbusy) Bool.false_ne_true, fun _ _ => .inr ⟨hnext, hdone⟩⟩

/-- Settles O35: by the kinds of steps; a write to STATUS clears by its bits 1 and 2. -/
theorem stickyBitsAreClearedOnlyByTheHost : Obligations.StickyBitsAreClearedOnlyByTheHost := by
  intro s t hstep
  cases step_path hstep with
  | quiet | accepted => exact ⟨of_kept rfl, of_kept rfl, of_kept rfl, of_kept rfl⟩
  | dropped w rest hagenda hbusy =>
    exact ⟨of_kept rfl, of_kept rfl, fun _ hclear => (by cases hclear), fun _ _ => ⟨hbusy, w, rest, hagenda⟩⟩
  | cleared v rest hagenda =>
    exact ⟨fun hold hnew => .inr ⟨v, rest, hagenda, of_cleared hold hnew⟩, not_set_by_clear,
      fun hold hnew => .inr ⟨v, rest, hagenda, of_cleared hold hnew⟩, not_set_by_clear⟩
  | reset rest hagenda =>
    exact ⟨fun _ _ => .inl ⟨rest, hagenda⟩, fun _ hset => (by cases hset), fun _ _ => .inl ⟨rest, hagenda⟩,
      fun _ hset => (by cases hset)⟩
  | illegal hnext =>
    exact ⟨fun _ hclear => (by cases hclear), fun _ _ => ⟨hnext, rfl⟩, of_kept rfl, of_kept rfl⟩
  | command hnext _ hexec =>
    obtain ⟨-, -, hovr, -⟩ := (exec_path hexec).unwritten
    rcases exec_done_busy hexec with rfl | ⟨hdone, hidle⟩
    · exact ⟨of_kept rfl, of_kept rfl, of_kept rfl, of_kept rfl⟩
    · exact ⟨fun _ hclear => absurd (hclear.symm.trans hdone) Bool.false_ne_true, fun _ _ => ⟨hnext, hidle⟩, of_kept hovr,
        of_kept hovr⟩

/-- A command that writes a barometer result is a compensation in READY. -/
theorem CommandPath.writes_baro {i : Instr} {s t : State} (h : CommandPath s i t)
    (hc : t.baro ≠ s.baro ∨ t.status.degen ≠ s.status.degen ∨ t.status.altInv ≠ s.status.altInv) :
    i ∈ compensations ∧ s.status.baroState = .ready ∧ t.status.err = .ok ∧ t.status.baroRv = true := by
  cases h with
  | compensated hi hready => exact ⟨hi, hready, rfl, rfl⟩
  | waits | refused | nop | decoded | magStartFailed | magStarted | magReadFailed | magFrame | initFailed | configured |
      calLoaded | baroReadFailed => simp at hc

/-- Settles O37: of the kinds of steps only a reset and a command reach the results. -/
theorem onlyCompensationsWriteBarometerResults : Obligations.OnlyCompensationsWriteBarometerResults := by
  intro s t hstep hc
  cases step_path hstep with
  | quiet | accepted | dropped | cleared | illegal => simp at hc
  | reset rest hagenda => exact .inl ⟨rest, hagenda⟩
  | command hnext hword hexec =>
    obtain ⟨hi, hready, herr, hrv⟩ := (exec_path hexec).writes_baro hc
    refine .inr ⟨hnext, ?_, hready, herr, hrv⟩
    rw [hword]
    simp only [compensations, List.mem_cons, List.not_mem_nil, or_false] at hi
    rcases hi with rfl | rfl
    · exact .inl rfl
    · exact .inr rfl

/-- A command that writes a magnetometer result is MAG_READ on its successful path. -/
theorem CommandPath.writes_mag {i : Instr} {s t : State} (h : CommandPath s i t) (hc : t.mag ≠ s.mag) :
    i = .magRead ∧ t.status.err = .ok ∧ t.status.magRv = true := by
  cases h with
  | magFrame => exact ⟨rfl, rfl, rfl⟩
  | waits | refused | nop | decoded | magStartFailed | magStarted | magReadFailed | initFailed | configured | calLoaded |
      baroReadFailed | compensated => exact absurd (by simp) hc

/-- A command that writes RES0 is a field decoder. -/
theorem CommandPath.writes_res0 {i : Instr} {s t : State} (h : CommandPath s i t) (hc : t.res0 ≠ s.res0) :
    i ∈ fieldDecoders ∧ t.status.err = .ok := by
  cases h with
  | decoded hi => exact ⟨hi, rfl⟩
  | waits | refused | nop | magStartFailed | magStarted | magReadFailed | magFrame | initFailed | configured | calLoaded |
      baroReadFailed | compensated => exact absurd (by simp) hc

/-- A command that moves the magnetometer's sequencer is one of its own two. -/
theorem CommandPath.moves_magState {i : Instr} {s t : State} (h : CommandPath s i t)
    (hc : t.status.magState ≠ s.status.magState) : i ∈ [.magStart, .magRead] := by
  cases h with
  | magStarted | magReadFailed | magFrame => decide
  | waits | refused | nop | decoded | magStartFailed | initFailed | configured | calLoaded | baroReadFailed | compensated =>
    exact absurd (by simp) hc

/-- A command that moves the barometer's sequencer is an initialisation command. -/
theorem CommandPath.moves_baroState {i : Instr} {s t : State} (h : CommandPath s i t)
    (hc : t.status.baroState ≠ s.status.baroState) : i ∈ initCommands := by
  cases h with
  | initFailed hi => exact hi
  | configured | calLoaded => decide
  | waits | refused | nop | decoded | magStartFailed | magStarted | magReadFailed | magFrame | baroReadFailed | compensated =>
    exact absurd (by simp) hc

/-- Settles O38: of the kinds of steps only a reset and a command reach the two kinds of results. -/
theorem onlyMagReadAndDecodersWriteTheirResults : Obligations.OnlyMagReadAndDecodersWriteTheirResults := by
  intro s t hstep
  cases step_path hstep with
  | quiet | accepted | dropped | cleared | illegal => simp
  | reset rest hagenda => exact ⟨fun _ => .inl ⟨rest, hagenda⟩, fun _ => .inl ⟨rest, hagenda⟩⟩
  | command hnext hword hexec =>
    refine ⟨fun hc => ?mag, fun hc => ?res0⟩
    case mag =>
      obtain ⟨rfl, herr, hrv⟩ := (exec_path hexec).writes_mag hc
      exact .inr ⟨hnext, hword, herr, hrv⟩
    case res0 =>
      obtain ⟨hi, herr⟩ := (exec_path hexec).writes_res0 hc
      exact .inr ⟨hnext, hword ▸ List.mem_map_of_mem (f := encode) hi, herr⟩

/-- Settles O39: of the kinds of steps only a reset and a command reach the sequencers. -/
theorem onlyTheirCommandsMoveTheSequencers : Obligations.OnlyTheirCommandsMoveTheSequencers := by
  intro s t hstep
  cases step_path hstep with
  | quiet | accepted | dropped | cleared | illegal => simp
  | reset rest hagenda => exact ⟨fun _ => .inl ⟨rest, hagenda⟩, fun _ => .inl ⟨rest, hagenda⟩⟩
  | command hnext hword hexec =>
    refine ⟨fun hc => .inr ⟨hnext, ?mag⟩, fun hc => .inr ⟨hnext, ?baro⟩⟩
    case mag => exact hword ▸ List.mem_map_of_mem (f := encode) ((exec_path hexec).moves_magState hc)
    case baro => exact hword ▸ List.mem_map_of_mem (f := encode) ((exec_path hexec).moves_baroState hc)

end Sys2Proof.Machine

/-! The statements on the host port, on what stops a run and on reset (10_state.md R30, 20_memory.md R80 to R84,
70_reset_and_hazards.md R290 to R294, R305). -/

namespace Sys2Proof.Machine

/-- Settles O2: a word is a command's when it is the command's encoding, and a reserved bit is looked at first. -/
theorem sampleWordsDecode : Obligations.SampleWordsDecode := by
  refine ⟨?_, ?_, ?_, ?_, ?reserved, ?unassigned⟩
  case reserved => rw [decode, if_neg (by decide)]
  case unassigned => rw [decode, if_pos (by decide)]; rfl
  all_goals exact decode_eq_ok_iff.2 (by decide)

/-! ### Host writes and reads -/

theorem accessShapeOk_of_aligned {off : Word} (h : off.toNat % 4 = 0) : accessShapeOk off 4 = true :=
  accessShapeOk_iff.2 ⟨rfl, h⟩

theorem accessInWindow_iff {off : Word} : accessInWindow off = true ↔ off.toNat ≤ 0xFC := by
  rw [accessInWindow, decide_eq_true_iff]

/-- Only four registers are reached by a host write (20_memory.md R84). -/
theorem writeOffset_ignored {off : Word} (h : off ∉ [0x004#32, 0x008#32, 0x00C#32, 0x010#32]) (v : Word) (s : State) :
    writeOffset off v s = s := by
  simp only [List.mem_cons, List.not_mem_nil, or_false, not_or] at h
  obtain ⟨hcmd, hstatus, harg0, harg1⟩ := h
  unfold writeOffset
  split
  next hreg => exact absurd (eq_of_ofOffset hreg) hcmd
  next hreg => exact absurd (eq_of_ofOffset hreg) hstatus
  next hreg => exact absurd (eq_of_ofOffset hreg) harg0
  next hreg => exact absurd (eq_of_ofOffset hreg) harg1
  next => rfl

/-- Settles O9: the step of a host write is what its register does with the value. -/
theorem otherHostWritesStoreOrAreIgnored : Obligations.OtherHostWritesStoreOrAreIgnored := by
  intro s off v rest hnext
  refine ⟨fun hoff => ?arg0, fun hoff => ?arg1, fun halign hwin hother => ?ignored⟩
  case arg0 =>
    subst hoff
    rw [step_of_hostWriteNext hnext (by decide) (by decide)]
    rfl
  case arg1 =>
    subst hoff
    rw [step_of_hostWriteNext hnext (by decide) (by decide)]
    rfl
  case ignored =>
    rw [step_of_hostWriteNext hnext (accessShapeOk_of_aligned halign) (accessInWindow_iff.2 hwin),
      writeOffset_ignored hother]

/-- The guard lets an aligned 32-bit access in the window through. -/
theorem guardAccess_of_contract {off : Word} (halign : off.toNat % 4 = 0) (hwin : off.toNat ≤ 0xFC) (k : StepResult) :
    guardAccess off 4 k = k := by
  rw [guardAccess, accessShapeOk_of_aligned halign, accessInWindow_iff.2 hwin]
  rfl

/-- An aligned 32-bit read in the window records the value of its offset and does nothing else (20_memory.md R83). -/
theorem step_of_hostReadNext {s : State} {off : Word} {rest : List Event} (h : EventNext s (.hostRead off 4) rest)
    (halign : off.toNat % 4 = 0) (hwin : off.toNat ≤ 0xFC) (hmag : s.status.magState ≠ .resultAvailable) :
    step s = .next { s with agenda := rest, hostReads := s.hostReads ++ [⟨off, readOffset off s⟩] } := by
  rw [step_of_eventNext h, perform, hostRead, guardAccess_of_contract halign hwin, if_neg (fun hstop => hmag hstop.2)]
  rfl

theorem readOffset_of_some {off : Word} {r : Reg} (h : Reg.ofOffset off.toNat = some r) (s : State) :
    readOffset off s = readReg r s := by
  rw [readOffset, h]

theorem readOffset_of_none {off : Word} (h : Reg.ofOffset off.toNat = none) (s : State) : readOffset off s = 0 := by
  rw [readOffset, h]

theorem Reg.offset_lt (r : Reg) : r.offset < 0x0B0 := by
  cases r <;> decide

/-- No register stands above CAL_P9 (10_state.md R30). -/
theorem Reg.ofOffset_of_le {n : Nat} (h : 0x0B0 ≤ n) : Reg.ofOffset n = none := by
  refine List.find?_eq_none.2 fun r _ hr => ?_
  have hlt := r.offset_lt
  rw [beq_iff_eq] at hr
  omega

theorem Reg.ofOffset_reserved :
    ∀ n ∈ [0x01C, 0x038, 0x03C, 0x068, 0x06C, 0x070, 0x074, 0x078, 0x07C], Reg.ofOffset n = none := by decide

/-- Settles O10: the register map read entry by entry. -/
theorem hostReadsReturnTheRegisterMap : Obligations.HostReadsReturnTheRegisterMap := by
  intro s off rest hnext halign hwin hmag
  refine ⟨readOffset off s, step_of_hostReadNext hnext halign hwin hmag, ?listed, ?unlisted⟩
  case listed =>
    simp only [List.forall_mem_cons, List.not_mem_nil, false_implies, implies_true, and_true]
    and_intros
    all_goals
      intro hoff
      rw [readOffset, hoff]
      rfl
  case unlisted =>
    rintro (hreserved | habove)
    · exact readOffset_of_none (Reg.ofOffset_reserved _ hreserved) s
    · exact readOffset_of_none (Reg.ofOffset_of_le habove) s

/-! ### Stops -/

/-- The check of R13, read as what it says of the two masks. -/
theorem premise_wf_iff_masks {p : InstancePremise} :
    p.wf = true ↔ p.startMask = p.readMask ∧ p.startMask.x = true ∧ p.startMask.y = true ∧ p.startMask.z = true ∧
      p.startMask.t = false := by
  obtain ⟨⟨x, y, z, t⟩, r⟩ := p
  simp only [InstancePremise.wf, AxisMask.xyz, Bool.and_eq_true, beq_iff_eq, AxisMask.mk.injEq]

theorem premise_wf_iff_xyz {p : InstancePremise} :
    p.wf = true ↔ p.startMask = AxisMask.xyz ∧ p.readMask = AxisMask.xyz := by
  rw [premise_wf_iff]
  cases p
  exact InstancePremise.mk.injEq .. ▸ Iff.rfl

/-- The frame length that R13 fixes. -/
theorem frameLen_of_wf {p : InstancePremise} (h : p.wf = true) : p.readMask.frameLen = magFrameLen := by
  rw [premise_wf_iff.1 h]
  decide

theorem guardAccess_refusal {off : Word} {bytes : Nat} {k : StepResult}
    (hk : k ≠ .refused .illFormedInstance) : guardAccess off bytes k ≠ .refused .illFormedInstance := by
  unfold guardAccess
  split
  · simp
  · split
    · simp
    · exact hk

theorem engineTurn_total (s : State) : ∃ t, engineTurn s = .next t := by
  unfold engineTurn
  split
  · unfold engineRun
    split
    · exact exec_total _ s
    · exact ⟨_, rfl⟩
  · exact ⟨s, rfl⟩

/-- No event of its own is refused for an ill-formed premise. -/
theorem perform_ne_illFormed (e : Event) (s : State) : perform e s ≠ .refused .illFormedInstance := by
  cases e with
  | hostRead off bytes => exact guardAccess_refusal (by split <;> simp)
  | hostWrite off bytes v => exact guardAccess_refusal (by simp)
  | wait | busAnswer | reset => simp [perform]
  | engine =>
    obtain ⟨t, ht⟩ := engineTurn_total s
    rw [perform, ht]
    simp
  | otherMaster => rw [perform]; split <;> simp

/-- A step is refused for its premise exactly when the premise fails the check. -/
theorem step_illFormed_iff {s : State} : step s = .refused .illFormedInstance ↔ s.premise.wf = false := by
  refine ⟨fun hstep => ?_, step_of_not_wf⟩
  by_contra hwf
  rw [step_of_wf (Bool.not_eq_false _ ▸ hwf), takeTurn] at hstep
  split at hstep
  · exact perform_ne_illFormed _ _ hstep
  · obtain ⟨t, ht⟩ := engineTurn_total s
    rw [ht] at hstep
    cases hstep

/-- No step changes the premise (00_scope.md R12). -/
theorem step_premise {s t : State} (h : step s = .next t) : t.premise = s.premise := by
  cases step_path h with
  | quiet | accepted | dropped | cleared | illegal => rfl
  | command _ _ hexec =>
    obtain ⟨-, -, -, -, -, -, hpremise⟩ := (exec_path hexec).unwritten
    exact hpremise
  | reset rest =>
    obtain ⟨⟨new, answers, habort, -⟩, -⟩ := abortCommand_recorded (turnTaken s)
    rw [resetBlock_premise, habort, turnTaken_premise]

/-- An aligned access above the window is refused by its guard (log entry 14). -/
theorem guardAccess_above {off : Word} (halign : off.toNat % 4 = 0) (habove : 0xFC < off.toNat) (k : StepResult) :
    guardAccess off 4 k = .refused .hostAccessOutsideWindow := by
  have hwin : accessInWindow off = false := by
    rw [← Bool.not_eq_true, accessInWindow_iff]
    omega
  rw [guardAccess, accessShapeOk_of_aligned halign, hwin]
  rfl

/-- Settles O12, one stop at a time. -/
theorem outsideContractEventsStop : Obligations.OutsideContractEventsStop := by
  refine ⟨fun s => step_of_not_wf, fun p => ⟨premise_wf_iff_masks, frameLen_of_wf⟩, fun s htrue => ?truthful,
    fun s t h => ⟨(step_next h).1, step_premise h⟩, fun s off v rest => ⟨fun halign habove => ⟨fun hread => ?readAbove,
      fun hwrite => ?writeAbove⟩, fun hread hmag => ?statusRead, fun hother => ⟨fun hbusy => ?during, fun hidle => ?between⟩⟩⟩
  case truthful =>
    obtain ⟨hstart, hread⟩ := htrue
    rw [step_illFormed_iff, ← Bool.not_eq_true, premise_wf_iff_xyz, hstart, hread, not_iff_not, AxisMask.xyz]
    constructor
    · rintro ⟨h1, h2⟩; exact ⟨h1.trans h2.symm, h2⟩
    · rintro ⟨h1, h2⟩; exact ⟨h1.trans h2, h2⟩
  case readAbove => rw [step_of_eventNext hread, perform, hostRead, guardAccess_above halign habove]
  case writeAbove => rw [step_of_eventNext hwrite, perform, hostWrite, guardAccess_above halign habove]
  case statusRead =>
    rw [step_of_eventNext hread, perform, hostRead, guardAccess_of_contract (by decide) (by decide)]
    exact if_pos ⟨by decide, hmag⟩
  case during => rw [step_of_eventNext hother, perform]; exact if_pos hbusy
  case between =>
    rw [step_of_eventNext hother, perform]
    exact if_neg (by simp [hidle])

/-! ### Waiting for the bus -/

theorem execMagStart_unanswered {s : State} (hstate : s.status.magState = .idle) (hbus : s.busIn = []) :
    execMagStart s = .next s := by
  rw [execMagStart, if_neg (not_not_intro hstate), sendMagStart, busWrite_nil.2 hbus, waitForBus]

theorem execMagRead_unanswered {s : State} (hstate : s.status.magState = .measuringRequested) (hbus : s.busIn = []) :
    execMagRead s = .next s := by
  rw [execMagRead, if_neg (not_not_intro hstate), fetchMagFrame, busRead_nil.2 hbus, waitForBus]

theorem execBaroConfigure_unanswered {s : State} (hbus : s.busIn = []) : execBaroConfigure s = .next s := by
  rw [execBaroConfigure, writeControl, busWrite_nil.2 hbus, waitForBus]

/-- With its control write alone acknowledged BARO_CONFIGURE still waits, and nothing of it stands in the history. -/
theorem execBaroConfigure_half_answered {s : State} {bytes : List Byte} (hbus : s.busIn = [.responds bytes]) :
    execBaroConfigure s = .next s := by
  simp only [execBaroConfigure, busWrite_cons hbus, toWrite_responds,
    busWrite_nil.2 (afterTransaction_busIn [] _ s), waitForBus]

theorem execBaroLoadCal_unanswered {s : State} (hstate : s.status.baroState ≠ .uninit) (hbus : s.busIn = []) :
    execBaroLoadCal s = .next s := by
  rw [execBaroLoadCal, if_neg hstate, fetchCalBlock, busRead_nil.2 hbus, waitForBus]

theorem execBaroRead_unanswered {s : State} (hstate : s.status.baroState = .ready) (hbus : s.busIn = []) :
    execBaroRead s = .next s := by
  rw [execBaroRead, if_neg (not_not_intro hstate), fetchDataBlock, busRead_nil.2 hbus, waitForBus]

/-- With its first write acknowledged and its second answered, BARO_CONFIGURE runs whole. -/
theorem execBaroConfigure_runs_whole {s : State} {bytes : List Byte} {a : BusAnswer}
    (hbus : s.busIn = [.responds bytes, a]) :
    ∃ u, execBaroConfigure s = .next u ∧ u.status.busy = false ∧ u.busIn = [] ∧
      u.history = s.history ++ [controlWrite .ack, configWrite a.toWrite] := by
  cases a with
  | responds bytes' => exact ⟨_, execBaroConfigure_acknowledged hbus, rfl, rfl, by simp⟩
  | fails => exact ⟨_, execBaroConfigure_config_failed hbus, rfl, rfl, by simp⟩

/-! ### What a reset records of the command it aborts -/

theorem recordCompleted_magStart {s : State} {a : BusAnswer} {rest : List BusAnswer}
    (hstate : s.status.magState = .idle) (hbus : s.busIn = a :: rest) :
    recordCompleted .magStart s =
      afterTransaction rest (.w Config.magBusAddr (.command Config.magCmdStart) a.toWrite) s := by
  rw [recordCompleted, if_neg (not_not_intro hstate), sendMagStart, busWrite_cons hbus]
  rfl

theorem recordCompleted_magRead {s : State} {a : BusAnswer} {rest : List BusAnswer}
    (hstate : s.status.magState = .measuringRequested) (hbus : s.busIn = a :: rest) :
    recordCompleted .magRead s =
      afterTransaction rest (.r Config.magBusAddr Config.magCmdRead magFrameLen (a.toRead magFrameLen).record) s := by
  rw [recordCompleted, if_neg (not_not_intro hstate), fetchMagFrame, busRead_cons hbus]
  rfl

theorem recordCompleted_baroLoadCal {s : State} {a : BusAnswer} {rest : List BusAnswer}
    (hstate : s.status.baroState ≠ .uninit) (hbus : s.busIn = a :: rest) :
    recordCompleted .baroLoadCal s =
      afterTransaction rest (.r Config.baroBusAddr Config.baroRegCalib calLen (a.toRead calLen).record) s := by
  rw [recordCompleted, if_neg hstate, fetchCalBlock, busRead_cons hbus]
  rfl

theorem recordCompleted_baroRead {s : State} {a : BusAnswer} {rest : List BusAnswer}
    (hstate : s.status.baroState = .ready) (hbus : s.busIn = a :: rest) :
    recordCompleted .baroRead s =
      afterTransaction rest (.r Config.baroBusAddr Config.baroRegData dataLen (a.toRead dataLen).record) s := by
  rw [recordCompleted, if_neg (not_not_intro hstate), fetchDataBlock, busRead_cons hbus]
  rfl

/-- A failed control write ends BARO_CONFIGURE, and an unanswered config write leaves the control write alone. -/
theorem recordCompleted_baroConfigure_control {s : State} {a : BusAnswer} {rest : List BusAnswer}
    (hbus : s.busIn = a :: rest) (hone : a = .fails ∨ rest = []) :
    recordCompleted .baroConfigure s = afterTransaction rest (controlWrite a.toWrite) s := by
  rw [recordCompleted, writeControl, busWrite_cons hbus]
  cases a with
  | fails => rfl
  | responds bytes =>
    obtain rfl : rest = [] := by simpa using hone
    rfl

theorem recordCompleted_baroConfigure_both {s : State} {bytes : List Byte} {a : BusAnswer} {rest : List BusAnswer}
    (hbus : s.busIn = .responds bytes :: a :: rest) :
    recordCompleted .baroConfigure s =
      afterTransaction rest (configWrite a.toWrite) (afterTransaction (a :: rest) (controlWrite .ack) s) := by
  rw [recordCompleted, writeControl, busWrite_cons hbus]
  rfl

/-- A command records nothing where it has no transaction or its state check fails. -/
theorem recordCompleted_of_no_path {i : Instr} {s : State} (hconfigure : i ≠ .baroConfigure)
    (hmagStart : i = .magStart → s.status.magState ≠ .idle)
    (hmagRead : i = .magRead → s.status.magState ≠ .measuringRequested)
    (hloadCal : i = .baroLoadCal → s.status.baroState = .uninit)
    (hread : i = .baroRead → s.status.baroState ≠ .ready) : recordCompleted i s = s := by
  cases i with
  | nop | decBeu16 | decBes16 | decLeu16 | decLes16 | decU20 | baroCompensate => rfl
  | baroConfigure => exact absurd rfl hconfigure
  | magStart => exact if_pos (hmagStart rfl)
  | magRead => exact if_pos (hmagRead rfl)
  | baroLoadCal => exact if_pos (hloadCal rfl)
  | baroRead => exact if_pos (hread rfl)

theorem step_of_resetNext {s : State} {rest : List Event} (h : EventNext s .reset rest) :
    step s = .next (resetBlock (abortCommand { s with agenda := rest })) := by
  rw [step_of_eventNext h, perform]

theorem abortCommand_of_legal {i : Instr} {s : State} (hbusy : s.status.busy = true) (hword : s.latch.lcmd = encode i) :
    abortCommand s = recordCompleted i s := by
  rw [abortCommand, if_pos hbusy, hword, decode_encode]

theorem abortCommand_of_illegal {s : State} (hillegal : ∀ i, s.latch.lcmd ≠ encode i) : abortCommand s = s := by
  obtain ⟨e, herror⟩ := decode_eq_error_iff.2 hillegal
  rw [abortCommand, herror]
  split <;> rfl

/-- A reset leaves the history and the answers that the running command's completed transactions leave. -/
theorem reset_records {i : Instr} {s : State} (hbusy : s.status.busy = true) (hword : s.latch.lcmd = encode i)
    (rest : List Event) :
    (resetBlock (abortCommand { s with agenda := rest })).history = (recordCompleted i s).history ∧
      (resetBlock (abortCommand { s with agenda := rest })).busIn = (recordCompleted i s).busIn := by
  rw [abortCommand_of_legal (s := { s with agenda := rest }) hbusy hword]
  exact recordCompleted_agenda i s rest

/-- A reset adds nothing where no command runs, nothing is answered or no transaction is on the command's path. -/
theorem abortCommand_adds_nothing {s : State}
    (h : s.status.busy = false ∨ s.busIn = [] ∨
      (s.latch.lcmd ≠ encode .baroConfigure ∧
        (s.latch.lcmd = encode .magStart → s.status.magState ≠ .idle) ∧
        (s.latch.lcmd = encode .magRead → s.status.magState ≠ .measuringRequested) ∧
        (s.latch.lcmd = encode .baroLoadCal → s.status.baroState = .uninit) ∧
        (s.latch.lcmd = encode .baroRead → s.status.baroState ≠ .ready))) :
    (abortCommand s).history = s.history ∧ (abortCommand s).busIn = s.busIn := by
  obtain ⟨⟨new, answers, habort, -, -, -, hnone⟩, hidle⟩ := abortCommand_recorded s
  rcases h with hb | hbus | ⟨hconfigure, hmagStart, hmagRead, hloadCal, hread⟩
  · rw [hidle hb]; exact ⟨rfl, rfl⟩
  · obtain ⟨rfl, rfl⟩ := hnone hbus
    rw [habort, hbus]
    exact ⟨List.append_nil _, rfl⟩
  · suffices hsame : abortCommand s = s by rw [hsame]; exact ⟨rfl, rfl⟩
    cases hbusy : s.status.busy with
    | false => exact hidle hbusy
    | true =>
      by_cases hlegal : ∃ i, s.latch.lcmd = encode i
      · obtain ⟨i, hword⟩ := hlegal
        rw [abortCommand_of_legal hbusy hword]
        refine recordCompleted_of_no_path ?_ ?_ ?_ ?_ ?_ <;> rintro rfl
        exacts [hconfigure hword, hmagStart hword, hmagRead hword, hloadCal hword, hread hword]
      · exact abortCommand_of_illegal (not_exists.1 hlegal)

/-! ### The reset column -/

/-- Every register but the two constants resets to zero (10_state.md R30). -/
theorem readReg_reset {r : Reg} (hid : r ≠ .id) (hcfg : r ≠ .cfgInfo) : readReg r State.reset = 0 := by
  cases r with
  | id => exact absurd rfl hid
  | cfgInfo => exact absurd rfl hcfg
  | _ => rfl

theorem readOffset_reset {k : Nat} (hk : k < 64) :
    readOffset (BitVec.ofNat 32 (4 * k)) State.reset =
      if k = 0 then 0x53444307#32 else if k = 6 then cfgInfoValue else 0#32 := by
  have hoff : (BitVec.ofNat 32 (4 * k)).toNat = 4 * k := by
    rw [BitVec.toNat_ofNat]
    omega
  split
  case isTrue h0 => subst h0; rfl
  case isFalse h0 =>
    split
    case isTrue h6 => subst h6; rfl
    case isFalse h6 =>
      cases hreg : Reg.ofOffset (BitVec.ofNat 32 (4 * k)).toNat with
      | none => exact readOffset_of_none hreg _
      | some r =>
        have hr := Reg.offset_of_ofOffset hreg
        rw [readOffset_of_some hreg]
        apply readReg_reset <;> rintro rfl <;> simp only [Reg.offset] at hr <;> omega

/-- Settles O14: the registers by the reset itself, the history by what the aborted command had completed. -/
theorem resetRestoresEveryRegister : Obligations.ResetRestoresEveryRegister := by
  refine ⟨fun s rest hnext => ?_, fun k => readOffset_reset⟩
  obtain ⟨⟨new, answers, habort, -, hlisted, -⟩, -⟩ := abortCommand_recorded { s with agenda := rest }
  refine ⟨_, step_of_resetNext hnext, rfl, rfl, rfl, rfl, rfl, rfl, rfl, rfl, ?_, ?_, ?_, ⟨new, ?_, hlisted⟩,
    fun i hbusy hword => reset_records hbusy hword rest, fun h => ?nothing⟩
  case nothing => exact abortCommand_adds_nothing (s := { s with agenda := rest }) h
  all_goals rw [habort]; rfl

/-- Settles O27: the waits, BARO_CONFIGURE's resumption and what a reset records, command by command. -/
theorem unansweredCommandsWaitAndResume : Obligations.UnansweredCommandsWaitAndResume := by
  refine ⟨fun s hbus => ⟨fun h => execMagStart_unanswered h hbus, fun h => execMagRead_unanswered h hbus,
    execBaroConfigure_unanswered hbus, fun h => execBaroLoadCal_unanswered h hbus,
    fun h => execBaroRead_unanswered h hbus⟩, ?resume, ?reset⟩
  case resume =>
    rintro s bytes a rest ctrl config rfl rfl hbus
    refine ⟨execBaroConfigure_half_answered hbus, fun hnext => ?_⟩
    have hbus' : s.busIn ++ [a] = [.responds bytes, a] := by rw [hbus]; rfl
    obtain ⟨u, hexec, hidle, hused, hhist⟩ :=
      execBaroConfigure_runs_whole (s := { s with agenda := rest, busIn := s.busIn ++ [a] }) hbus'
    exact ⟨_, u, by rw [step_of_eventNext hnext, perform], hbus', hexec, hidle, hused, hhist⟩
  case reset =>
    rintro s a answers rest ctrl config rfl rfl hnext hbusy hbus
    refine ⟨_, step_of_resetNext hnext, fun hword hstate => ?_, fun hword hstate => ?_, fun hword hstate => ?_,
      fun hword hstate => ?_, fun hword hone => ?_, ?both⟩
    case both =>
      rintro hword bytes a' answers' rfl rfl
      obtain ⟨hhist, hleft⟩ := reset_records hbusy hword rest
      rw [hhist, hleft, recordCompleted_baroConfigure_both hbus]
      exact ⟨rfl, by simp⟩
    all_goals obtain ⟨hhist, hleft⟩ := reset_records hbusy hword rest; rw [hhist, hleft]
    · rw [recordCompleted_magStart hstate hbus]; exact ⟨rfl, rfl⟩
    · rw [recordCompleted_magRead hstate hbus]; exact ⟨rfl, rfl⟩
    · rw [recordCompleted_baroLoadCal hstate hbus]; exact ⟨rfl, rfl⟩
    · rw [recordCompleted_baroRead hstate hbus]; exact ⟨rfl, rfl⟩
    · rw [recordCompleted_baroConfigure_control hbus hone]; exact ⟨rfl, rfl⟩

end Sys2Proof.Machine

/-! The statements on the binary64 operations (00_scope.md R16): conversions, the four operations and the square root. -/

namespace Sys2Proof.Machine

/-- Settles O48, by the exact conversion of integers. -/
theorem integerConversionIsExact : Obligations.IntegerConversionIsExact :=
  fun _ hn => ⟨isFinite_f64 hn, toUnits_f64 hn⟩

/-! ### Rounding once to nearest, with a sign -/

/-- A finite value is its magnitude with its sign. -/
theorem toUnits_eq_or (x : F64) : toUnits x = magUnits x ∨ toUnits x = -(magUnits x : Int) := by
  unfold toUnits
  split
  · exact .inr rfl
  · exact .inl rfl

/-- Distances of magnitudes as distances of signed values: `r` has the sign of `num`, and a candidate `c` of the other sign
is no nearer than zero is. -/
theorem signed_dist_le {R C : Nat} {num r c : Int} (hr : (r = R ∧ 0 ≤ num) ∨ (r = -(R : Int) ∧ num ≤ 0))
    (hc : c = C ∨ c = -(C : Int)) (hle : ((R : Int) - num.natAbs).natAbs ≤ ((C : Int) - num.natAbs).natAbs)
    (hzero : ((R : Int) - num.natAbs).natAbs ≤ num.natAbs) :
    (r - num).natAbs ≤ (c - num).natAbs ∧
      ((r - num).natAbs = (c - num).natAbs →
        ((R : Int) - num.natAbs).natAbs = ((C : Int) - num.natAbs).natAbs ∧ (C = R → c = r)) := by
  omega

/-- The rounding of a magnitude, with the sign of the exact value (either sign where that is zero), is the binary64 nearest
to the exact value. -/
theorem isNearest_packSign {neg : Bool} {num : Int} {den : Nat} (hden : 0 < den)
    (hover : num.natAbs < overflowUnits * den) (hsign : if neg then num ≤ 0 else 0 ≤ num) :
    IsNearest (packSign neg (roundBits num.natAbs den)) num den := by
  obtain ⟨hfin, hnearest⟩ := roundBits_nearest hden hover
  refine ⟨isFinite_packSign hfin, fun c _ => ?_⟩
  rw [magBits_packSign hfin.le]
  have hround : (toUnits (packSign neg (roundBits num.natAbs den)) * den =
        ((unitsOfBits (roundBits num.natAbs den) * den : Nat) : Int) ∧ 0 ≤ num) ∨
      (toUnits (packSign neg (roundBits num.natAbs den)) * den =
        -((unitsOfBits (roundBits num.natAbs den) * den : Nat) : Int) ∧ num ≤ 0) := by
    rw [toUnits_packSign hfin.le, Nat.cast_mul]
    cases neg with
    | false => rw [if_neg Bool.false_ne_true] at hsign ⊢; exact .inl ⟨rfl, hsign⟩
    | true => rw [if_pos rfl] at hsign ⊢; exact .inr ⟨Int.neg_mul _ _, hsign⟩
  have hcand : toUnits c * den = ((unitsOfBits (magBits c) * den : Nat) : Int) ∨
      toUnits c * den = -((unitsOfBits (magBits c) * den : Nat) : Int) := by
    rw [Nat.cast_mul, ← Int.neg_mul]
    exact (toUnits_eq_or c).imp (congrArg (· * (den : Int))) (congrArg (· * (den : Int)))
  obtain ⟨hle, htie⟩ := hnearest (magBits c)
  have hzero := (hnearest 0).1
  rw [unitsOfBits_zero, Nat.zero_mul, Nat.cast_zero, zero_sub, Int.natAbs_neg, Int.natAbs_natCast] at hzero
  obtain ⟨hdist, hdistTie⟩ := signed_dist_le hround hcand hle hzero
  refine ⟨hdist, fun heq => ?_⟩
  obtain ⟨hmagTie, hsame⟩ := hdistTie heq
  refine (htie hmagTie).imp_left fun hbits => ?_
  exact Int.eq_of_mul_eq_mul_right (Int.natCast_pos.2 hden).ne' (hsame (by rw [hbits]))

/-! ### The four operations -/

theorem natAbs_mul_toUnits (a b : F64) : (toUnits a * toUnits b).natAbs = magUnits a * magUnits b := by
  rw [Int.natAbs_mul, natAbs_toUnits, natAbs_toUnits]

/-- The sign bit of a value that is not zero is its sign. -/
theorem toUnits_sign (x : F64) : if x.msb then toUnits x ≤ 0 else 0 ≤ toUnits x := by
  unfold toUnits
  split <;> omega

/-- The sign bit of a product or quotient, the exclusive or of the operands', fits the product of the values. -/
theorem mul_sign_of_msb (a b : F64) {x y : Int} (hx : if a.msb then x ≤ 0 else 0 ≤ x) (hy : if b.msb then y ≤ 0 else 0 ≤ y) :
    if (a.msb != b.msb) = true then x * y ≤ 0 else 0 ≤ x * y := by
  cases ha : a.msb <;> cases hb : b.msb <;> rw [ha] at hx <;> rw [hb] at hy
  · exact Int.mul_nonneg hx hy
  · exact Int.mul_nonpos_of_nonneg_of_nonpos hx hy
  · exact Int.mul_nonpos_of_nonpos_of_nonneg hx hy
  · exact Int.mul_nonneg_of_nonpos_of_nonpos hx hy

theorem isNearest_fAdd {a b : F64} (ha : isFinite a = true) (hb : isFinite b = true)
    (hover : (toUnits a + toUnits b).natAbs < overflowUnits) : IsNearest (fAdd a b) (toUnits a + toUnits b) 1 := by
  rw [fAdd_finite ha hb]
  refine isNearest_packSign Nat.one_pos (by rwa [Nat.mul_one]) ?_
  by_cases hzero : toUnits a + toUnits b = 0
  · rw [hzero, ite_self]
  · simp only [hzero, if_false, decide_eq_true_eq]; split <;> omega

theorem isNearest_fMul {a b : F64} (ha : isFinite a = true) (hb : isFinite b = true)
    (hover : (toUnits a * toUnits b).natAbs < overflowUnits * oneUnits) :
    IsNearest (fMul a b) (toUnits a * toUnits b) oneUnits := by
  rw [fMul_finite ha hb, ← natAbs_mul_toUnits]
  exact isNearest_packSign oneUnits_pos hover (mul_sign_of_msb a b (toUnits_sign a) (toUnits_sign b))

theorem isNearest_fDiv {a b : F64} (ha : isFinite a = true) (hb : isFinite b = true) (hb0 : toUnits b ≠ 0)
    (hover : (toUnits a * oneUnits).natAbs < overflowUnits * (toUnits b).natAbs) :
    IsNearest (fDiv a b) (toUnits a * oneUnits * (toUnits b).sign) (toUnits b).natAbs := by
  have habs : (toUnits a * oneUnits * (toUnits b).sign).natAbs = magUnits a * oneUnits := by
    rw [Int.natAbs_mul, Int.natAbs_sign_of_ne_zero hb0, Nat.mul_one, Int.natAbs_mul, natAbs_toUnits, Int.natAbs_natCast]
  have hsignA : if a.msb then toUnits a * oneUnits ≤ 0 else 0 ≤ toUnits a * oneUnits := by
    have hunits := Int.natCast_nonneg oneUnits
    have h := toUnits_sign a
    cases ha : a.msb <;> rw [ha] at h
    · exact Int.mul_nonneg h hunits
    · exact Int.mul_nonpos_of_nonpos_of_nonneg h hunits
  have hsignB : if b.msb then (toUnits b).sign ≤ 0 else 0 ≤ (toUnits b).sign := by
    have h := toUnits_sign b
    cases hb : b.msb <;> rw [hb] at h
    · exact Int.sign_nonneg_iff.2 h
    · exact Int.sign_nonpos_iff.2 h
  rw [fDiv_finite ha hb (mt (toUnits_eq_zero b).2 hb0), ← natAbs_toUnits b, ← habs]
  refine isNearest_packSign (Int.natAbs_pos.2 hb0) ?_ (mul_sign_of_msb a b hsignA hsignB)
  rwa [habs, ← natAbs_toUnits, ← Int.natAbs_natCast oneUnits, ← Int.natAbs_mul]

theorem oneUnits_def : oneUnits = 2 ^ 1074 := rfl

/-- Settles O49: each operation packs one rounding of its exact result. -/
theorem arithmeticRoundsOnceToNearestEven : Obligations.ArithmeticRoundsOnceToNearestEven := by
  intro a b ha hb
  refine ⟨?add, ?sub, ?mul, ?div⟩
  case add => intro hover; exact isNearest_fAdd ha hb hover
  case sub =>
    have h := isNearest_fAdd (b := fNeg b) ha (by rwa [fNeg_isFinite])
    rw [toUnits_fNeg, ← Int.sub_eq_add_neg] at h
    rw [fSub_finite ha hb]
    exact h
  case mul =>
    intro hover
    rw [← oneUnits_def] at hover ⊢
    exact isNearest_fMul ha hb hover
  case div =>
    intro hb0 hover
    rw [← oneUnits_cast] at hover ⊢
    exact isNearest_fDiv ha hb hb0 hover

/-! ### The square root -/

/-- Only a subnormal or a value of the lowest binade is an odd number of units. -/
theorem unitsOfBits_lt_of_odd {bits : Nat} (h : unitsOfBits bits % 2 = 1) : unitsOfBits bits < 2 ^ 53 := by
  obtain ⟨k, n, rfl, hk, hn⟩ := bits_split bits
  rw [unitsOfBits_eq hk hn.le] at h ⊢
  cases k with
  | zero => rwa [pow_zero, Nat.mul_one]
  | succ k =>
    rw [pow_succ, ← Nat.mul_assoc, Nat.mul_mod_left] at h
    cases h

/-- No other encoding is as near to a large half-integer `s + 1/2` as the nearest one: their sum would be odd, so one of
them would lie below 2^53, and an encoding that is at most `s` but large is nearer. -/
theorem no_tie_at_half {R U s P : Nat} (hodd : ∀ u ∈ [R, U], u % 2 = 1 → u < 2 ^ 53) (hP : 2 ^ 53 ≤ P) (hs : P ≤ s)
    (hnear : ((R * 2 : Nat) - (2 * s + 1 : Nat) : Int).natAbs ≤ ((P * 2 : Nat) - (2 * s + 1 : Nat) : Int).natAbs) :
    R + U ≠ 2 * s + 1 := by
  have hR := hodd R (by simp)
  have hU := hodd U (by simp)
  omega

/-- A value is as near to `x` as another one when `x` is on its side of their middle. -/
theorem abs_sub_le_of_middle {r u x : ℝ} (hlt : r < u → 2 * x ≤ r + u) (hgt : u < r → r + u ≤ 2 * x) :
    |r - x| ≤ |u - x| := by
  rw [← sq_le_sq]
  have hprod : (r - u) * (r + u - 2 * x) ≤ 0 := by
    rcases lt_trichotomy r u with h | rfl | h
    · exact mul_nonpos_of_nonpos_of_nonneg (by linarith) (by linarith [hlt h])
    · simp
    · exact mul_nonpos_of_nonneg_of_nonpos (by linarith) (by linarith [hgt h])
  nlinarith

/-- The encoding nearest to an integer is the nearest to it as a real number. -/
theorem abs_sub_le_of_exact {R U s : Nat} (hle : ((R * 2 : Nat) - (2 * s : Nat) : Int).natAbs ≤
    ((U * 2 : Nat) - (2 * s : Nat) : Int).natAbs) : |(R : ℝ) - s| ≤ |(U : ℝ) - s| := by
  apply abs_sub_le_of_middle <;> intro h <;> norm_cast at h ⊢ <;> omega

/-- The encoding nearest to the half-integer `s + 1/2` is the nearest to every real between `s` and `s + 1`, where no other
is as near to the half-integer. -/
theorem abs_sub_le_of_between {R U s : Nat} {x : ℝ} (hlow : s ≤ x) (hhigh : x ≤ s + 1)
    (hle : ((R * 2 : Nat) - (2 * s + 1 : Nat) : Int).natAbs ≤ ((U * 2 : Nat) - (2 * s + 1 : Nat) : Int).natAbs)
    (htie : R + U ≠ 2 * s + 1) : |(R : ℝ) - x| ≤ |(U : ℝ) - x| := by
  apply abs_sub_le_of_middle
  case hlt =>
    intro h
    norm_cast at h
    have hsum : 2 * s + 2 ≤ R + U := by omega
    have hsum' : (2 : ℝ) * s + 2 ≤ R + U := by exact_mod_cast hsum
    linarith
  case hgt =>
    intro h
    norm_cast at h
    have hsum : R + U ≤ 2 * s := by omega
    have hsum' : (R : ℝ) + U ≤ 2 * s := by exact_mod_cast hsum
    linarith

/-- A finite value is below 2^1024, in units. -/
theorem magUnits_lt {x : F64} (h : isFinite x = true) : magUnits x < 2 ^ 2098 := by
  rw [← unitsOfBits_pow (t := 2098) (by norm_num)]
  exact unitsOfBits_strictMono (of_decide_eq_true h)

theorem pow_le_overflowUnits : 2 * 2 ^ 1586 ≤ overflowUnits := by decide +kernel

/-- The root of a finite value is far from the overflow bound. -/
theorem isqrt_lt_of_finite {x : F64} (h : isFinite x = true) : isqrt (magUnits x * oneUnits) < 2 ^ 1586 := by
  obtain ⟨hlow, -⟩ := isqrt_spec (magUnits x * oneUnits)
  rw [← Nat.mul_self_lt_mul_self_iff]
  calc _ ≤ magUnits x * oneUnits := hlow
    _ < 2 ^ 2098 * oneUnits := Nat.mul_lt_mul_of_pos_right (magUnits_lt h) oneUnits_pos
    _ = 2 ^ 1586 * 2 ^ 1586 := by rw [pow_mul_oneUnits, ← Nat.pow_add]

theorem sq_eq_oneUnits : 2 ^ 537 * 2 ^ 537 = oneUnits := by decide +kernel

/-- The root of a value that is not zero has more than 500 bits, in units. -/
theorem pow_le_isqrt {m : Nat} (h : 0 < m) : 2 ^ 537 ≤ isqrt (m * oneUnits) := by
  obtain ⟨-, hhigh⟩ := isqrt_spec (m * oneUnits)
  rw [← Nat.lt_succ_iff, ← Nat.mul_self_lt_mul_self_iff]
  calc 2 ^ 537 * 2 ^ 537 = oneUnits := sq_eq_oneUnits
    _ ≤ m * oneUnits := Nat.le_mul_of_pos_left _ h
    _ < _ := hhigh

/-- The real root lies between the integer root and the next integer. -/
theorem isqrt_le_sqrt (n : Nat) : (isqrt n : ℝ) ≤ √(n : ℝ) ∧ √(n : ℝ) ≤ isqrt n + 1 := by
  obtain ⟨hlow, hhigh⟩ := isqrt_spec n
  constructor
  · exact Real.le_sqrt_of_sq_le (by rw [sq]; exact_mod_cast hlow)
  · refine Real.sqrt_le_iff.2 ⟨by positivity, ?_⟩
    rw [sq]
    exact_mod_cast hhigh.le

/-- `sqrtBits` is nearest to the real root among the magnitudes of finite values. -/
theorem sqrtBits_nearest {m : Nat} (hm : 0 < m) (hs : isqrt (m * oneUnits) < 2 ^ 1586) (c : Nat) :
    sqrtBits m < infBits ∧
      |(unitsOfBits (sqrtBits m) : ℝ) - √((m * oneUnits : Nat) : ℝ)| ≤
        |(unitsOfBits c : ℝ) - √((m * oneUnits : Nat) : ℝ)| := by
  have hover := pow_le_overflowUnits
  obtain ⟨hlow, hhigh⟩ := isqrt_le_sqrt (m * oneUnits)
  have hlarge := pow_le_isqrt hm
  rw [sqrtBits]
  generalize isqrt (m * oneUnits) = s at *
  split
  case isTrue hexact =>
    obtain ⟨hfin, hnear⟩ := roundBits_nearest (num := 2 * s) (den := 2) Nat.two_pos (by omega)
    have hroot : √((m * oneUnits : Nat) : ℝ) = s := by
      rw [← hexact, Nat.cast_mul, Real.sqrt_mul_self (Nat.cast_nonneg s)]
    rw [hroot]
    exact ⟨hfin, abs_sub_le_of_exact (hnear c).1⟩
  case isFalse =>
    obtain ⟨hfin, hnear⟩ := roundBits_nearest (num := 2 * s + 1) (den := 2) Nat.two_pos (by omega)
    have hsmall : 2 ^ 53 ≤ 2 ^ 537 := by decide +kernel
    have hpow := (hnear ((537 - 51) * 2 ^ 52)).1
    rw [unitsOfBits_pow (t := 537) (by norm_num)] at hpow
    refine ⟨hfin, abs_sub_le_of_between hlow hhigh (hnear c).1 (no_tie_at_half ?_ hsmall hlarge hpow)⟩
    simp only [List.mem_cons, List.not_mem_nil, or_false, forall_eq_or_imp, forall_eq]
    exact ⟨unitsOfBits_lt_of_odd, unitsOfBits_lt_of_odd⟩

theorem oneUnits_cast_real : ((oneUnits : Nat) : ℝ) = 2 ^ 1074 :=
  (Nat.cast_pow 2 1074).trans (by rw [Nat.cast_ofNat])

/-- Settles O50: the magnitudes by `sqrtBits_nearest`; a negative value is no nearer than zero. -/
theorem squareRootIsCorrectlyRounded : Obligations.SquareRootIsCorrectlyRounded := by
  intro a hfin hsign
  have hvalue : (toUnits a : ℝ) * 2 ^ 1074 = ((magUnits a * oneUnits : Nat) : ℝ) := by
    rw [toUnits, hsign, if_neg Bool.false_ne_true, Int.cast_natCast, ← oneUnits_cast_real, ← Nat.cast_mul]
  rw [hvalue, fSqrt_finite hfin hsign]
  rcases Nat.eq_zero_or_pos (magUnits a) with hzero | hpos
  case inl =>
    rw [hzero, sqrtBits_zero, Nat.zero_mul, Nat.cast_zero, Real.sqrt_zero, toUnits_packSign (Nat.zero_le _),
      unitsOfBits_zero]
    exact ⟨by decide, by decide, fun c _ => by simp⟩
  case inr =>
    have hnear := sqrtBits_nearest hpos (isqrt_lt_of_finite hfin)
    have hlt := (hnear 0).1
    refine ⟨isFinite_packSign hlt, msb_packSign hlt.le, fun c _ => ?_⟩
    rw [toUnits_packSign hlt.le, if_neg Bool.false_ne_true, Int.cast_natCast]
    rcases toUnits_eq_or c with hc | hc <;> rw [hc]
    · rw [Int.cast_natCast]
      exact (hnear (magBits c)).2
    · refine (hnear 0).2.trans ?_
      have hroot := Real.sqrt_nonneg ((magUnits a * oneUnits : Nat) : ℝ)
      have hunits : (0 : ℝ) ≤ magUnits c := Nat.cast_nonneg _
      rw [unitsOfBits_zero, Nat.cast_zero, Int.cast_neg, Int.cast_natCast, abs_of_nonpos (by linarith),
        abs_of_nonpos (by linarith)]
      linarith

end Sys2Proof.Machine

/-! The statements on the comparisons, on POW_F64 and the altitude, on the bounds of the engine's outputs and on the two
commands that run it (00_scope.md R16, 44_compensation.md R245 to R250). -/

namespace Sys2Proof.Machine

/-! ### The comparisons -/

theorem unitsOfBits_lt {a b : Nat} : unitsOfBits a < unitsOfBits b ↔ a < b :=
  StrictMono.lt_iff_lt (f := unitsOfBits) fun _ _ h => unitsOfBits_strictMono h

/-- The order of the encodings is the order of the values, infinities included. -/
theorem orderKey_lt_iff (a b : F64) : orderKey a < orderKey b ↔ toUnits a < toUnits b := by
  have hab : magUnits a < magUnits b ↔ magBits a < magBits b := unitsOfBits_lt
  have hba : magUnits b < magUnits a ↔ magBits b < magBits a := unitsOfBits_lt
  have ha := toUnits_eq_zero a
  have hb := toUnits_eq_zero b
  unfold orderKey
  unfold toUnits at ha hb ⊢
  split <;> split <;> simp_all only [if_true, if_false, Bool.false_eq_true, neg_eq_zero, Nat.cast_eq_zero] <;> omega

theorem orderKey_eq_iff (a b : F64) : orderKey a = orderKey b ↔ toUnits a = toUnits b := by
  have hab := orderKey_lt_iff a b
  have hba := orderKey_lt_iff b a
  omega

/-- `<f` is the order of the values where neither is a NaN. -/
theorem fLt_iff {a b : F64} (ha : isNaN a = false) (hb : isNaN b = false) : fLt a b = true ↔ toUnits a < toUnits b := by
  rw [fLt, ha, hb, Bool.not_false, Bool.and_self, Bool.true_and, decide_eq_true_iff, orderKey_lt_iff]

theorem fEq_iff {a b : F64} (ha : isNaN a = false) (hb : isNaN b = false) : fEq a b = true ↔ toUnits a = toUnits b := by
  rw [fEq, ha, hb, Bool.not_false, Bool.and_self, Bool.true_and, beq_iff_eq, orderKey_eq_iff]

theorem isNaN_of_isFinite {x : F64} (h : isFinite x = true) : isNaN x = false := ((isFinite_iff x).1 h).1

theorem compare_nan {a b : F64} (h : isNaN a = true ∨ isNaN b = true) : fLt a b = false ∧ fEq a b = false := by
  rcases h with h | h <;> simp [fLt, fEq, h]

theorem isNaN_fZero : isNaN fZero = false := by decide

theorem toUnits_fZero : toUnits fZero = 0 := (toUnits_eq_zero _).2 (by decide)

/-- What ALT_INV tells of a pressure (44_compensation.md R246). -/
theorem of_fLt_zero {x : F64} (h : fLt x fZero = true) : isNaN x = false ∧ toUnits x < 0 := by
  have hnan : isNaN x = false := by
    by_contra hx
    rw [(compare_nan (.inl (Bool.eq_true_of_not_eq_false hx))).1] at h
    cases h
  exact ⟨hnan, by rwa [fLt_iff hnan isNaN_fZero, toUnits_fZero] at h⟩

/-! ### The altitude -/

theorem f64Lit_44330 : f64Lit 44330 1 = 0x40E5A54000000000#64 := by decide +kernel
theorem f64Lit_101325_100 : f64Lit 101325 100 = 0x408FAA0000000000#64 := by decide +kernel
theorem altExponent_eq : altExponent = 0x3FC85BC01A36E2EB#64 := by decide +kernel

theorem altitudeFormula_eq (p : F64) :
    altitudeFormula p = fMul 0x40E5A54000000000#64 (fSub 0x3FF0000000000000#64 p) := by
  rw [altitudeFormula, f64Lit_44330, f64Lit_one]

theorem compAltitude_eq (pow : F64 → F64 → F64) (pressure : F64) :
    compAltitude pow pressure = fMul 0x40E5A54000000000#64 (fSub 0x3FF0000000000000#64
      (pow (fDiv pressure 0x408FAA0000000000#64) 0x3FC85BC01A36E2EB#64)) := by
  rw [compAltitude, altitudeFormula_eq, f64Lit_101325_100, altExponent_eq]

/-- Settles O54: the sign of the pressure, as `<f` tells it, picks the path. -/
theorem altitudePathIsTheFormula : Obligations.AltitudePathIsTheFormula := by
  refine ⟨fun a b ha hb => ?values, fun a b => compare_nan, ?paths⟩
  case values =>
    have hna := isNaN_of_isFinite ha
    have hnb := isNaN_of_isFinite hb
    exact ⟨fLt_iff hna hnb, fEq_iff hna hnb⟩
  case paths =>
    rintro order pow adcT adcP c res rfl
    rw [← fZero, compensateWith_altitude, compensateWith_altInvalid]
    refine ⟨fun h => ⟨h, ?formula⟩, fun h => ⟨h, if_pos h⟩, fun hfin => ?sign, fun hpow hzero => ?zero⟩
    case formula => rw [h, if_neg Bool.false_ne_true, compAltitude_eq]
    case sign => rw [fLt_iff (isNaN_of_isFinite hfin) isNaN_fZero, toUnits_fZero]
    case zero =>
      have hlt : fLt fZero fZero = false := by decide
      rw [hzero, hlt, if_neg Bool.false_ne_true, compAltitude_zero hpow]
      exact ⟨rfl, rfl⟩

/-! ### POW_F64 -/

theorem isFinitePos_iff (x : F64) : isFinitePos x = true ↔ x.msb = false ∧ 0 < magBits x ∧ magBits x < infBits := by
  simp [isFinitePos, and_assoc]

theorem isFinite_of_isFinitePos {x : F64} (h : isFinitePos x = true) : isFinite x = true := by
  obtain ⟨-, -, hlt⟩ := (isFinitePos_iff x).1 h
  exact decide_eq_true hlt

/-- A finite value without sign bit is +0.0 or above zero. -/
theorem eq_fZero_or_isFinitePos {x : F64} (hfin : isFinite x = true) (hsign : x.msb = false) :
    x = fZero ∨ isFinitePos x = true := by
  rcases Nat.eq_zero_or_pos (magBits x) with hzero | hpos
  · left
    rw [magBits_eq] at hzero
    rw [BitVec.msb_eq_decide, decide_eq_false_iff_not] at hsign
    have hlt := x.isLt
    apply BitVec.eq_of_toNat_eq
    rw [fZero, BitVec.toNat_ofNat]
    omega
  · exact .inr ((isFinitePos_iff x).2 ⟨hsign, hpos, of_decide_eq_true hfin⟩)

/-- The encodings 1 to `infBits - 1` are those of the finite values above zero. -/
theorem isFinitePos_ofNat {n : Nat} (hpos : 0 < n) (hlt : n < infBits) : isFinitePos (BitVec.ofNat 64 n) = true := by
  have hpack : BitVec.ofNat 64 n = packSign false n := rfl
  rw [isFinitePos_iff, hpack, msb_packSign hlt.le, magBits_packSign hlt.le]
  exact ⟨rfl, hpos, hlt⟩

/-- The model's POW_F64 has the properties of 44_compensation.md R247. -/
theorem powConforming_powF64 : PowConforming powF64 := by
  refine ⟨if_pos ⟨rfl, rfl⟩, fun y => ?one, fun x y hx => ?positive⟩
  case one => rw [powF64, if_neg (fun h => absurd h.1 (by decide)), if_pos rfl]
  case positive =>
    have hzero : x ≠ fZero := by
      rintro rfl
      exact absurd hx (by decide)
    rw [powF64, if_neg (fun h => hzero h.1), if_pos hx]
    split
    · decide
    · have hmod : (Config.powRaw x y).toNat % (infBits - 1) < infBits - 1 := Nat.mod_lt _ (by decide)
      exact isFinitePos_ofNat (by omega) (by omega)

/-- Settles O55. -/
theorem powerFunctionConforms : Obligations.PowerFunctionConforms :=
  ⟨powConforming_powF64, compAltitude_eq powF64⟩

/-! ### A conforming power near the largest binary64 -/

/-- A conforming power that is the largest binary64 wherever R247 leaves it free. -/
def largestPow (x y : F64) : F64 :=
  if x = fZero ∧ y = altExponent then fZero else if x = fOne then fOne else 0x7FEFFFFFFFFFFFFF#64

theorem powConforming_largestPow : PowConforming largestPow := by
  refine ⟨if_pos ⟨rfl, rfl⟩, fun y => ?one, fun x y hx => ?positive⟩
  case one => rw [largestPow, if_neg (fun h => absurd h.1 (by decide)), if_pos rfl]
  case positive =>
    have hzero : x ≠ fZero := by
      rintro rfl
      exact absurd hx (by decide)
    rw [largestPow, if_neg (fun h => hzero h.1)]
    split <;> decide

/-- 44330.0 times such a power overflows. -/
theorem compAltitude_largestPow : isFinite (compAltitude largestPow 0x408F7442E7504A97#64) = false := by decide +kernel

/-- Refutes O58: with `largestPow` the altitude of the reference example is an infinity. -/
theorem not_altitudeFormulaIsFiniteForEveryConformingPower :
    ¬ Obligations.AltitudeFormulaIsFiniteForEveryConformingPower := by
  intro h
  have hpress := compensateWith_example_pressure .squareFirst largestPow
  have halt : (compensateWith .squareFirst largestPow 519888 415148 exampleCalib).altInvalid = false := by
    rw [compensateWith_altInvalid, hpress]
    decide
  obtain ⟨hfinite, -⟩ := h .squareFirst largestPow 519888 415148 exampleCalib _ powConforming_largestPow (by decide) rfl
  rw [compensateWith_altitude, halt, if_neg Bool.false_ne_true, hpress, compAltitude_largestPow] at hfinite
  exact Bool.false_ne_true hfinite

/-! ### BARO_READ and BARO_COMPENSATE -/

/-- An ADC operand holds a code when its low 20 bits do. -/
theorem adcOperand_eq_of_toNat {l : Word} {code : BitVec 20} (h : l.toNat % 2 ^ 20 = code.toNat) : adcOperand l = code := by
  apply BitVec.eq_of_toNat_eq
  rw [adcOperand_toNat, h]

/-- Settles O60: both commands end in the same compensation of the same codes. -/
theorem readAndCompensateAgree : Obligations.ReadAndCompensateAgree := by
  intro s s' t t' b rest hready hready' hcal hbus hadcT hadcP hread hcomp
  rw [exec_baroRead, execBaroRead_of_data hready hbus (toRead_toList b)] at hread
  rw [exec_baroCompensate, execBaroCompensate_of_ready hready', adcOperand_eq_of_toNat hadcT,
    adcOperand_eq_of_toNat hadcP] at hcomp
  cases hread
  cases hcomp
  simp [hcal]

end Sys2Proof.Machine

/-! Bounds on every value of the engine, from below on the scale term, and what they say of its outputs
(44_compensation.md R250). -/

namespace Sys2Proof.Machine

/-! ### Bounds on a quotient -/

/-- A quotient by a finite value that is not too small. -/
theorem AtMostPow.div {e g : Nat} {x y : F64} (hx : AtMostPow e x) (hy : isFinite y = true)
    (hlow : 2 ^ e * oneUnits ≤ 2 ^ g * magUnits y) (hg : g ≤ 1023) : AtMostPow g (fDiv x y) := by
  have hy0 : magUnits y ≠ 0 := by
    intro hzero
    rw [hzero, Nat.mul_zero] at hlow
    exact absurd hlow (Nat.not_le.2 (Nat.mul_pos (Nat.two_pow_pos e) oneUnits_pos))
  refine .of_units (fDiv_le_pow hx.finite hy hy0 (by omega) (by omega) ?_)
  calc magUnits x * oneUnits ≤ 2 ^ e * oneUnits * oneUnits := Nat.mul_le_mul_right _ hx.le
    _ ≤ 2 ^ g * magUnits y * oneUnits := Nat.mul_le_mul_right _ hlow
    _ = 2 ^ (g + 1074) * magUnits y := by rw [← pow_mul_oneUnits, Nat.mul_right_comm]

/-- A quotient by a positive integer literal is bounded by the power of two below it. -/
theorem AtMostPow.div_literal {e g n : Nat} {x : F64} (hx : AtMostPow e x) (hn : n < 2 ^ 53) (hlow : 2 ^ e ≤ 2 ^ g * n)
    (hg : g ≤ 1023) : AtMostPow g (fDiv x (f64Lit n 1)) := by
  have hexact : (n : Int).natAbs < 2 ^ 53 := by rwa [Int.natAbs_natCast]
  rw [f64Lit_den_one]
  refine hx.div (isFinite_f64 hexact) ?_ hg
  rw [magUnits_f64 hexact, Int.natAbs_natCast, ← Nat.mul_assoc]
  exact Nat.mul_le_mul_right _ hlow

theorem atMostPow_literal {n e : Nat} (hn : n ≤ 2 ^ e) (he : e ≤ 52) : AtMostPow e (f64Lit n 1) := by
  rw [f64Lit_den_one]
  exact atMostPow_f64 (by rwa [Int.natAbs_natCast]) he

/-! ### The scale term from below -/

/-- A large encoding is a multiple of a large power of two. -/
theorem pow_dvd_unitsOfBits {bits j t : Nat} (hj : j + 52 ≤ t) (h : 2 ^ t ≤ unitsOfBits bits) : 2 ^ j ∣ unitsOfBits bits := by
  obtain ⟨k, n, rfl, hk, hn⟩ := bits_split bits
  rw [unitsOfBits_eq hk hn.le] at h ⊢
  have hlt : 2 ^ t < 2 ^ (53 + k) :=
    calc 2 ^ t ≤ n * 2 ^ k := h
      _ < 2 ^ 53 * 2 ^ k := Nat.mul_lt_mul_of_pos_right hn (Nat.two_pow_pos k)
      _ = 2 ^ (53 + k) := (Nat.pow_add 2 53 k).symm
  have hexp := (Nat.pow_lt_pow_iff_right Nat.one_lt_two).1 hlt
  exact Dvd.dvd.mul_left (Nat.pow_dvd_pow 2 (by omega)) n

/-- The least magnitude of a sum `1.0 ⊕ x` that is not zero: 2^-53, in units. -/
abbrev leastFactor : Nat := 2 ^ 1021

theorem oneUnits_eq_leastFactor : oneUnits = 2 ^ 53 * leastFactor := by decide +kernel

theorem half_eq_leastFactor : 2 ^ 1073 = 2 ^ 52 * leastFactor := by decide +kernel

/-- A sum of 1.0 and a value is zero or at least 2^-53 in magnitude: unless the value is below one half, both are multiples
of 2^-53. -/
theorem one_add_toUnits {x : F64} (hne : oneUnits + toUnits x ≠ 0) :
    leastFactor ≤ ((oneUnits : Int) + toUnits x).natAbs := by
  have hone := oneUnits_eq_leastFactor
  have hhalf := half_eq_leastFactor
  have habs := natAbs_toUnits x
  rcases Nat.lt_or_ge (magUnits x) (2 ^ 1073) with hlt | hge
  case inl => omega
  case inr =>
    have hdvdOne : (leastFactor : Int) ∣ oneUnits := by
      rw [hone, Nat.cast_mul]
      exact Dvd.intro_left _ rfl
    have hdvd : (leastFactor : Int) ∣ toUnits x := by
      rw [← Int.dvd_natAbs, Int.natCast_dvd_natCast, habs]
      exact pow_dvd_unitsOfBits (by norm_num) hge
    exact Nat.le_of_dvd (Int.natAbs_pos.2 hne) (Int.natCast_dvd.1 (Int.dvd_add hdvdOne hdvd))

theorem toUnits_f64Lit_one : toUnits (f64Lit 1 1) = oneUnits := by
  rw [f64Lit_den_one, toUnits_f64 (by norm_num), Nat.cast_one, Int.one_mul, oneUnits_cast]

theorem fAdd_one_low {x : F64} (hx : isFinite x = true) (hne : magBits (fAdd (f64Lit 1 1) x) ≠ 0) :
    leastFactor ≤ magUnits (fAdd (f64Lit 1 1) x) := by
  have hone : isFinite (f64Lit 1 1) = true := (atMostPow_literal (e := 0) (by norm_num) (by norm_num)).finite
  rw [fAdd_finite hone hx, toUnits_f64Lit_one] at hne ⊢
  rw [magBits_packSign (roundBits_le_infBits _ _)] at hne
  rw [magUnits_packSign (roundBits_le_infBits _ _)]
  refine pow_le_roundBits Nat.one_pos (by norm_num) (by norm_num) ?_
  rw [Nat.mul_one]
  apply one_add_toUnits
  intro hzero
  rw [hzero, Int.natAbs_zero, roundBits_zero] at hne
  exact hne rfl

/-- A product by an integer that is not zero keeps the lower bound. -/
theorem fMul_f64_low {x : F64} {n : Int} (hx : isFinite x = true) (hn : n.natAbs < 2 ^ 53) (hn0 : n ≠ 0)
    (hlow : leastFactor ≤ magUnits x) : leastFactor ≤ magUnits (fMul x (f64 n)) := by
  rw [fMul_finite hx (isFinite_f64 hn), magUnits_packSign (roundBits_le_infBits _ _), magUnits_f64 hn, ← Nat.mul_assoc]
  refine pow_le_roundBits oneUnits_pos (by norm_num) (by norm_num) (Nat.mul_le_mul_right _ ?_)
  exact hlow.trans (Nat.le_mul_of_pos_right _ (Int.natAbs_pos.2 hn0))

section
variable {c : Calib} {q1 : F64}

/-- A scale term that is not zero is at least 2^-53. -/
theorem compQ3_low (order : SquareOrder) (hq1 : AtMostPow 24 q1) (hc : c.InRange)
    (hne : fEq (compQ3 order q1 c) fZero = false) : leastFactor ≤ magUnits (compQ3 order q1 c) := by
  have hboth := mt (fEq_compQ3_zero_iff hq1 hc).2 (Bool.eq_false_iff.1 hne)
  obtain ⟨hp1, hfactor⟩ := not_or.1 hboth
  obtain ⟨-, -, -, ⟨hmin, hmax⟩, hp2, hp3, -⟩ := hc
  have hratio : AtMostPow 11 (fDiv (scaleTerm order q1 c) (f64Lit 32768 1)) :=
    (scaleTerm_atMostPow order hq1 hp2 hp3).div_pow (k := 15) (by norm_num) (by norm_num)
  rw [compQ3_eq]
  refine fMul_f64_low (scaleFactor_atMostPow order hq1 hp2 hp3).finite (by omega) hp1 ?_
  rw [fEq_zero_iff] at hfactor
  exact fAdd_one_low hratio.finite hfactor

theorem compQ3_atMostPow (order : SquareOrder) (hq1 : AtMostPow 24 q1) (hc : c.InRange) :
    AtMostPow 28 (compQ3 order q1 c) := by
  obtain ⟨-, -, -, hp1, hp2, hp3, -⟩ := hc
  rw [compQ3_eq]
  exact (scaleFactor_atMostPow order hq1 hp2 hp3).mul (atMostPow_unsignedCoeff hp1) (by norm_num)

/-! ### The pressure from above -/

theorem compW2_atMostPow (hq1 : AtMostPow 24 q1) (hc : c.InRange) : AtMostPow 48 (compW2 q1 c) := by
  obtain ⟨-, -, -, -, -, -, hp4, hp5, hp6, -⟩ := hc
  have hw0 : AtMostPow 48 (fDiv (fMul (fMul q1 q1) (f64 c.p6)) (f64Lit 32768 1)) :=
    ((hq1.mul hq1 (by norm_num)).mul (atMostPow_signedCoeff hp6) (by norm_num)).div_pow (k := 15) (by norm_num)
      (by norm_num)
  have hlinear : AtMostPow 40 (fMul (fMul q1 (f64 c.p5)) (f64Lit 2 1)) :=
    (hq1.mul (atMostPow_signedCoeff hp5) (by norm_num)).mul (atMostPow_literal (e := 1) (by norm_num) (by norm_num))
      (by norm_num)
  have hw1 := hw0.add (hlinear.mono (by norm_num)) (by norm_num)
  have hquarter := hw1.div_pow (e := 47) (k := 2) (by norm_num) (by norm_num)
  have hoffset : AtMostPow 31 (fMul (f64 c.p4) (f64Lit 65536 1)) :=
    (atMostPow_signedCoeff hp4).mul (atMostPow_literal (e := 16) (by norm_num) (by norm_num)) (by norm_num)
  rw [compW2]
  exact hquarter.add (hoffset.mono (by norm_num)) (by norm_num)

theorem compP1_atMostPow {w2 q3 : F64} (adcP : BitVec 20) (hw2 : AtMostPow 48 w2) (hq3 : isFinite q3 = true)
    (hlow : leastFactor ≤ magUnits q3) : AtMostPow 103 (compP1 adcP w2 q3) := by
  have hp0 : AtMostPow 21 (fSub (f64Lit 1048576 1) (f64 adcP.toNat)) :=
    (atMostPow_literal (e := 20) (by norm_num) (by norm_num)).sub (atMostPow_adcCode adcP) (by norm_num)
  have hoffset : AtMostPow 36 (fDiv w2 (f64Lit 4096 1)) := hw2.div_pow (k := 12) (by norm_num) (by norm_num)
  have hnum : AtMostPow 50 (fMul (fSub (fSub (f64Lit 1048576 1) (f64 adcP.toNat)) (fDiv w2 (f64Lit 4096 1)))
      (f64Lit 6250 1)) :=
    ((hp0.mono (by norm_num)).sub hoffset (by norm_num)).mul
      (atMostPow_literal (e := 13) (by norm_num) (by norm_num)) (by norm_num)
  rw [compP1]
  refine hnum.div hq3 ?_ (by norm_num)
  calc 2 ^ 50 * oneUnits = 2 ^ 103 * leastFactor := by
        rw [oneUnits_eq_leastFactor, ← Nat.mul_assoc, ← Nat.pow_add]
    _ ≤ 2 ^ 103 * magUnits q3 := Nat.mul_le_mul_left _ hlow

theorem compPressure_atMostPow {p1 : F64} (order : SquareOrder) (hp1 : AtMostPow 103 p1) (hc : c.InRange) :
    AtMostPow 189 (compPressure order p1 c) := by
  obtain ⟨-, -, -, -, -, -, -, -, -, hp7, hp8, hp9⟩ := hc
  have hv9 : AtMostPow 190 (fDiv (compSq order (f64 c.p9) p1) (f64Lit 2147483648 1)) :=
    ((atMostPow_signedCoeff hp9).sq order hp1 (by norm_num)).div_pow (k := 31) (by norm_num) (by norm_num)
  have hv8 : AtMostPow 103 (fDiv (fMul p1 (f64 c.p8)) (f64Lit 32768 1)) :=
    (hp1.mul (atMostPow_signedCoeff hp8) (by norm_num)).div_pow (k := 15) (by norm_num) (by norm_num)
  have hsum := (hv9.add (hv8.mono (by norm_num)) (by norm_num)).add
    ((atMostPow_signedCoeff hp7).mono (by norm_num)) (by norm_num)
  have hcorrection := hsum.div_pow (e := 188) (k := 4) (by norm_num) (by norm_num)
  have hpa := (hp1.mono (by norm_num)).add hcorrection (by norm_num)
  rw [compPressure]
  exact hpa.div_literal (by norm_num) (by norm_num) (by norm_num)

end

section
variable (order : SquareOrder) (pow : F64 → F64 → F64) (adcT adcP : BitVec 20) {c : Calib}

theorem atMostPow_fZero : AtMostPow 189 fZero := ⟨by decide, by decide +kernel⟩

/-- The pressure of a calibration in range is far below the largest binary64. -/
theorem compensateWith_pressure_atMostPow (hc : c.InRange) :
    AtMostPow 189 (compensateWith order pow adcT adcP c).pressure := by
  have hq1 := compQ1_atMostPow (compTfine_atMostPow adcT hc)
  rw [compensateWith_pressure]
  cases hdegen : (compensateWith order pow adcT adcP c).degenerate with
  | true => rw [if_pos rfl]; exact atMostPow_fZero
  | false =>
    rw [if_neg Bool.false_ne_true]
    rw [compensateWith_degenerate] at hdegen
    exact compPressure_atMostPow order (compP1_atMostPow adcP (compW2_atMostPow hq1 hc)
      (compQ3_atMostPow order hq1 hc).finite (compQ3_low order hq1 hc hdegen)) hc

end

/-! ### The altitude -/

theorem isNaN_packSign {neg : Bool} {bits : Nat} (h : bits ≤ infBits) : isNaN (packSign neg bits) = false := by
  rw [isNaN, magBits_packSign h, decide_eq_false_iff_not]
  exact Nat.not_lt.2 h

/-- A finite factor that is not zero makes no NaN, whether or not the other one is an infinity. -/
theorem isNaN_fMul {a b : F64} (ha : isFinite a = true) (ha0 : magBits a ≠ 0) (hb : isNaN b = false) :
    isNaN (fMul a b) = false := by
  obtain ⟨hna, hia⟩ := (isFinite_iff a).1 ha
  cases hib : isInf b with
  | false =>
    rw [fMul_finite ha ((isFinite_iff b).2 ⟨hb, hib⟩)]
    exact isNaN_packSign (roundBits_le_infBits _ _)
  | true =>
    have hb0 : magBits b ≠ 0 := by
      rw [isInf, beq_iff_eq] at hib
      rw [hib]
      decide
    have hmul : fMul a b = packSign (a.msb != b.msb) infBits := by simp [fMul, hna, hia, hb, hib, ha0, hb0]
    rw [hmul]
    exact isNaN_packSign le_rfl

/-- The formula of a finite power is no NaN: it may overflow, but 44330.0 is not zero. -/
theorem isNaN_altitudeFormula {p : F64} (hp : isFinite p = true) : isNaN (altitudeFormula p) = false := by
  rw [altitudeFormula_eq]
  refine isNaN_fMul (by decide) (by decide) ?_
  rw [fSub_finite (by decide) hp, fAdd_finite (by decide) (by rwa [fNeg_isFinite])]
  exact isNaN_packSign (roundBits_le_infBits _ _)

/-- A finite pressure that is not negative and not -0.0 has sign bit 0. -/
theorem msb_of_not_negative {x : F64} (hfin : isFinite x = true) (hlt : fLt x fZero = false)
    (hne : x ≠ 0x8000000000000000#64) : x.msb = false := by
  by_contra hsign
  have hnot := mt (fLt_iff (isNaN_of_isFinite hfin) isNaN_fZero).2 (Bool.eq_false_iff.1 hlt)
  rw [toUnits_fZero, toUnits, if_pos (Bool.eq_true_of_not_eq_false hsign)] at hnot
  have hzero : magBits x = 0 := by
    rw [← toUnits_eq_zero, ← Int.natAbs_eq_zero, natAbs_toUnits]
    omega
  apply hne
  rw [magBits_eq] at hzero
  rw [BitVec.msb_eq_decide, decide_eq_false_iff_not, not_not] at hsign
  have hsize := x.isLt
  apply BitVec.eq_of_toNat_eq
  rw [BitVec.toNat_ofNat]
  omega

/-- The largest power whose formula does not overflow, about 4.06e303. -/
def largestBoundedPow : Nat := 0x7EF7A763F09DA17F

/-- 44330.0 times that power is finite. -/
theorem roundBits_largestBoundedPow :
    roundBits (magUnits 0x40E5A54000000000#64 * unitsOfBits largestBoundedPow) oneUnits < infBits := by decide +kernel

theorem oneUnits_le_largestBoundedPow : oneUnits ≤ unitsOfBits largestBoundedPow := by decide +kernel

theorem toUnits_fOne : toUnits 0x3FF0000000000000#64 = oneUnits := by
  rw [← f64Lit_one, toUnits_f64Lit_one]

/-- The formula is finite for every power up to that one: `1.0 ⊖ p` is no larger than 1.0 or `p`. -/
theorem isFinite_altitudeFormula {p : F64} (h : p.toNat ≤ largestBoundedPow) : isFinite (altitudeFormula p) = true := by
  have hbound : largestBoundedPow < infBits := by decide
  have hbits : magBits p ≤ largestBoundedPow := (magBits_eq p).trans_le ((Nat.mod_le _ _).trans h)
  have hfin : isFinite p = true := decide_eq_true (lt_of_le_of_lt hbits hbound)
  have hsign : p.msb = false := by
    rw [BitVec.msb_eq_decide, decide_eq_false_iff_not]
    have hlarge : largestBoundedPow < 2 ^ 63 := by decide
    omega
  have hunits : magUnits p ≤ unitsOfBits largestBoundedPow := unitsOfBits_le.2 hbits
  have hone := oneUnits_le_largestBoundedPow
  have hdiff : ((oneUnits : Int) + -toUnits p).natAbs ≤ unitsOfBits largestBoundedPow := by
    rw [toUnits, hsign, if_neg Bool.false_ne_true]
    omega
  have hround : roundBits ((oneUnits : Int) + -toUnits p).natAbs 1 ≤ largestBoundedPow :=
    roundBits_le_of_le Nat.one_pos hbound (by rwa [Nat.mul_one])
  have hlt := lt_of_le_of_lt hround hbound
  rw [altitudeFormula_eq, fSub_finite (by decide) hfin, fAdd_finite (by decide) (by rwa [fNeg_isFinite]), toUnits_fNeg,
    toUnits_fOne, fMul_finite (by decide) (isFinite_packSign hlt), magUnits_packSign hlt.le]
  refine isFinite_packSign (lt_of_le_of_lt (roundBits_mono oneUnits_pos oneUnits_pos ?_) roundBits_largestBoundedPow)
  exact Nat.mul_le_mul_right _ (Nat.mul_le_mul_left _ (unitsOfBits_le.2 hround))

/-- A conforming power that the engine asks for at a pressure that is not negative is finite. -/
theorem isFinite_pow_of_not_negative {pow : F64 → F64 → F64} {x : F64} (hpow : PowConforming pow) (hx : AtMostPow 189 x)
    (hsign : x.msb = false) : isFinite (pow (fDiv x (f64Lit 101325 100)) altExponent) = true := by
  have hfin : isFinite (f64Lit 101325 100) = true := by rw [f64Lit_101325_100]; decide
  have hlow : 2 ^ 189 * oneUnits ≤ 2 ^ 189 * magUnits (f64Lit 101325 100) := by
    rw [f64Lit_101325_100]
    decide +kernel
  have hratio := hx.div hfin hlow (by norm_num)
  have hratioSign : (fDiv x (f64Lit 101325 100)).msb = false := by
    rw [fDiv_finite hx.finite hfin (by rw [f64Lit_101325_100]; decide), msb_packSign (roundBits_le_infBits _ _), hsign,
      f64Lit_101325_100]
    decide
  rcases eq_fZero_or_isFinitePos hratio.finite hratioSign with hzero | hpos
  · rw [hzero, hpow.zero]
    decide
  · exact isFinite_of_isFinitePos (hpow.positive _ _ hpos)

/-- Settles O57: the bounds of t_fine and the pressure, and the formula at a finite and at a bounded power. -/
theorem engineOutputsAreFinite : Obligations.EngineOutputsAreFinite := by
  rintro order pow adcT adcP c res p hc rfl rfl
  have htFine := compTfine_atMostPow adcT hc
  have hpressure := compensateWith_pressure_atMostPow order pow adcT adcP hc
  rw [compensateWith_tFine, compensateWith_temperature]
  refine ⟨htFine.finite, ?temperature, hpressure.finite, fun hpow hne => ?noNaN, fun hbound => ?bounded⟩
  case temperature => exact (htFine.div_literal (g := 12) (by norm_num) (by norm_num) (by norm_num)).finite
  all_goals
    rw [compensateWith_altitude]
    cases halt : (compensateWith order pow adcT adcP c).altInvalid
  case noNaN.true => rw [if_pos rfl, isNaN_fZero]
  case noNaN.false =>
    rw [compensateWith_altInvalid] at halt
    rw [if_neg Bool.false_ne_true, compAltitude]
    exact isNaN_altitudeFormula
      (isFinite_pow_of_not_negative hpow hpressure (msb_of_not_negative hpressure.finite halt hne))
  case bounded.true => rw [if_pos rfl]; decide
  case bounded.false =>
    rw [← f64Lit_101325_100] at hbound
    rw [if_neg Bool.false_ne_true, compAltitude]
    exact isFinite_altitudeFormula hbound

end Sys2Proof.Machine

/-! The four invariants that every step keeps (10_state.md R38, R40 to R43, R50 to R62, 43_barometer.md R211,
44_compensation.md R252), each as a property of the registers it reads: a step that leaves those alone keeps it. -/

namespace Sys2Proof.Machine

/-! ### The sequencer state -/

/-- A step's next state has the sequencer sound when both fields are those of a sound state. -/
theorem SequencerSound.congr {s t : State} (h : SequencerSound s) (hstate : t.status.magState = s.status.magState)
    (hrv : t.status.magRv = s.status.magRv) : SequencerSound t :=
  ⟨hstate ▸ h.noResultAvailable, fun hreq => hrv ▸ h.requestedNotValid (hstate ▸ hreq)⟩

theorem CommandPath.sequencerSound {i : Instr} {s t : State} (hs : SequencerSound s) (h : CommandPath s i t) :
    SequencerSound t := by
  cases h with
  | magStarted => exact ⟨by simp, fun _ => rfl⟩
  | magReadFailed | magFrame => exact ⟨by simp, by simp⟩
  | waits | refused | nop | decoded | magStartFailed | initFailed | configured | calLoaded | baroReadFailed | compensated =>
    exact hs.congr (by simp) (by simp)

theorem resetBlock_sequencerSound (s : State) : SequencerSound (resetBlock s) := ⟨by simp, by simp⟩

/-- Settles O40: only the magnetometer's two commands and a reset reach its two fields. -/
theorem stepKeepsSequencerSound : Obligations.StepKeepsSequencerSound := by
  intro s t hs hstep
  cases step_path hstep with
  | quiet | accepted | dropped | cleared | illegal => exact hs.congr rfl rfl
  | command _ _ hexec => exact (exec_path hexec).sequencerSound (hs.congr (t := turnTaken s) rfl rfl)
  | reset => exact resetBlock_sequencerSound _

/-! ### The register formats -/

/-- The format of each kind of register, said of the register blocks (10_state.md R50, R51, R55, R62). -/
structure MagFormats (m : MagRegs) : Prop where
  x : signExtended16 m.x
  y : signExtended16 m.y
  z : signExtended16 m.z
  stat : m.stat.toNat < 2 ^ 8

structure BaroFormats (b : BaroRegs) : Prop where
  adcT : b.adcT.toNat < 2 ^ 20
  adcP : b.adcP.toNat < 2 ^ 20

structure CalFormats (c : CalRegs) : Prop where
  t1 : c.t1.toNat < 2 ^ 16
  t2 : signExtended16 c.t2
  t3 : signExtended16 c.t3
  p1 : c.p1.toNat < 2 ^ 16
  p2 : signExtended16 c.p2
  p3 : signExtended16 c.p3
  p4 : signExtended16 c.p4
  p5 : signExtended16 c.p5
  p6 : signExtended16 c.p6
  p7 : signExtended16 c.p7
  p8 : signExtended16 c.p8
  p9 : signExtended16 c.p9

/-- The invariant is one property of each of the three register blocks. -/
theorem registerFormats_iff {s : State} :
    RegisterFormats s ↔ MagFormats s.mag ∧ BaroFormats s.baro ∧ CalFormats s.cal := by
  constructor
  · rintro ⟨hx, hy, hz, hstat, hadcT, hadcP, ht1, ht2, ht3, hp1, hp2, hp3, hp4, hp5, hp6, hp7, hp8, hp9⟩
    exact ⟨⟨hx, hy, hz, hstat⟩, ⟨hadcT, hadcP⟩, ⟨ht1, ht2, ht3, hp1, hp2, hp3, hp4, hp5, hp6, hp7, hp8, hp9⟩⟩
  · rintro ⟨⟨hx, hy, hz, hstat⟩, ⟨hadcT, hadcP⟩, ⟨ht1, ht2, ht3, hp1, hp2, hp3, hp4, hp5, hp6, hp7, hp8, hp9⟩⟩
    exact ⟨hx, hy, hz, hstat, hadcT, hadcP, ht1, ht2, ht3, hp1, hp2, hp3, hp4, hp5, hp6, hp7, hp8, hp9⟩

theorem signExtended16_zero : signExtended16 0 := fun _ _ _ => by simp

theorem MagFormats.reset : MagFormats MagRegs.reset :=
  ⟨signExtended16_zero, signExtended16_zero, signExtended16_zero, by decide⟩

theorem BaroFormats.reset : BaroFormats BaroRegs.reset := ⟨by decide, by decide⟩

theorem CalFormats.reset : CalFormats CalRegs.reset := by
  refine ⟨?_, signExtended16_zero, signExtended16_zero, ?_, signExtended16_zero, signExtended16_zero, signExtended16_zero,
    signExtended16_zero, signExtended16_zero, signExtended16_zero, signExtended16_zero, signExtended16_zero⟩ <;> decide

theorem MagFormats.decoded (b : Vector Byte magFrameLen) : MagFormats (magDecode b).regs :=
  ⟨signExtended16_sext32 (beInt16_range _ _), signExtended16_sext32 (beInt16_range _ _),
    signExtended16_sext32 (beInt16_range _ _), (zext32_toNat (by decide) _).trans_lt (BitVec.isLt _)⟩

theorem BaroFormats.written (adcT adcP : BitVec 20) (res : CompResult) : BaroFormats (res.regs adcT adcP) :=
  ⟨(zext32_toNat (by decide) _).trans_lt adcT.isLt, (zext32_toNat (by decide) _).trans_lt adcP.isLt⟩

theorem CalFormats.of_inRange {c : Calib} (h : c.InRange) : CalFormats c.regs := by
  obtain ⟨ht1, ht2, ht3, hp1, hp2, hp3, hp4, hp5, hp6, hp7, hp8, hp9⟩ := h
  exact ⟨zextCoeff_lt ht1, signExtended16_sext32 ht2, signExtended16_sext32 ht3, zextCoeff_lt hp1,
    signExtended16_sext32 hp2, signExtended16_sext32 hp3, signExtended16_sext32 hp4, signExtended16_sext32 hp5,
    signExtended16_sext32 hp6, signExtended16_sext32 hp7, signExtended16_sext32 hp8, signExtended16_sext32 hp9⟩

/-- The formats hold where each register block is one of a state that has them. -/
theorem RegisterFormats.congr {s t : State} (h : RegisterFormats s) (hmag : t.mag = s.mag) (hbaro : t.baro = s.baro)
    (hcal : t.cal = s.cal) : RegisterFormats t := by
  rw [registerFormats_iff, hmag, hbaro, hcal]
  exact registerFormats_iff.1 h

theorem CommandPath.registerFormats {i : Instr} {s t : State} (hs : RegisterFormats s) (h : CommandPath s i t) :
    RegisterFormats t := by
  obtain ⟨hmag, hbaro, hcal⟩ := registerFormats_iff.1 hs
  cases h with
  | magFrame answers b => exact registerFormats_iff.2 ⟨.decoded b, hbaro, hcal⟩
  | calLoaded answers b => exact registerFormats_iff.2 ⟨hmag, hbaro, .of_inRange (calParse_inRange b)⟩
  | compensated hi hready adcT adcP => exact registerFormats_iff.2 ⟨hmag, .written adcT adcP _, hcal⟩
  | waits | refused | nop | decoded | magStartFailed | magStarted | magReadFailed | initFailed | configured |
      baroReadFailed => exact hs.congr (by simp) (by simp) (by simp)

theorem resetBlock_registerFormats (s : State) : RegisterFormats (resetBlock s) :=
  registerFormats_iff.2 ⟨.reset, .reset, .reset⟩

/-- Settles O41: each register block is written whole, by a decoded frame, a parsed block, a compensation or a reset. -/
theorem stepKeepsRegisterFormats : Obligations.StepKeepsRegisterFormats := by
  intro s t hs hstep
  cases step_path hstep with
  | quiet | accepted | dropped | cleared | illegal => exact hs.congr rfl rfl rfl
  | command _ _ hexec => exact (exec_path hexec).registerFormats (hs.congr (t := turnTaken s) rfl rfl rfl)
  | reset => exact resetBlock_registerFormats _

/-! ### Readings are computed from bytes that the bus gave -/

section
variable {s t : State} (hgrow : ∀ e ∈ s.history, e ∈ t.history)
include hgrow

/-- The magnetometer's reading stays genuine while its registers are kept and MAG_RV is not set. -/
theorem MagReadingGenuine.keep (h : MagReadingGenuine s) (hmag : t.mag = s.mag)
    (hrv : s.status.magRv = false → t.status.magRv = false) : MagReadingGenuine t := by
  rcases h with ⟨hreset, hnot⟩ | ⟨b, hread, hregs⟩
  · exact .inl ⟨hmag.trans hreset, hrv hnot⟩
  · exact .inr ⟨b, hgrow _ hread, hmag.trans hregs⟩

/-- The calibration stays genuine while its registers are kept and READY is not entered. -/
theorem CalibrationGenuine.keep (h : CalibrationGenuine s) (hcal : t.cal = s.cal)
    (hready : t.status.baroState = .ready → s.status.baroState = .ready) : CalibrationGenuine t := by
  intro ht
  obtain ⟨b, hread, hparse⟩ := h (hready ht)
  exact ⟨b, hgrow _ hread, by rw [hcal, hparse]⟩

/-- The barometer's reading stays genuine while its registers and flags are kept, BARO_RV is not set and READY is not left
with BARO_RV = 1. -/
theorem BaroReadingGenuine.keep (h : BaroReadingGenuine s) (hbaro : t.baro = s.baro)
    (hdegen : t.status.degen = s.status.degen) (haltInv : t.status.altInv = s.status.altInv)
    (hrv : t.status.baroRv = true → s.status.baroRv = true)
    (hready : t.status.baroRv = true → s.status.baroState = .ready → t.status.baroState = .ready) :
    BaroReadingGenuine t := by
  intro ht
  obtain ⟨hstate, b, adcT, adcP, res, hread, hres, hregs, hdeg, halt⟩ := h (hrv ht)
  exact ⟨hready ht hstate, b, adcT, adcP, res, hgrow _ hread, hres, hbaro.trans hregs, hdegen.trans hdeg,
    haltInv.trans halt⟩

/-- A step that keeps the registers, the flags and the sequencer keeps the three parts. -/
theorem ReadingsGenuine.keep (h : ReadingsGenuine s) (hmag : t.mag = s.mag) (hcal : t.cal = s.cal) (hbaro : t.baro = s.baro)
    (hmagRv : t.status.magRv = s.status.magRv) (hstate : t.status.baroState = s.status.baroState)
    (hbaroRv : t.status.baroRv = s.status.baroRv) (hdegen : t.status.degen = s.status.degen)
    (haltInv : t.status.altInv = s.status.altInv) : ReadingsGenuine t := by
  obtain ⟨hm, hc, hb⟩ := h
  exact ⟨hm.keep hgrow hmag (fun h => hmagRv.trans h), hc.keep hgrow hcal (fun h => hstate.symm.trans h),
    hb.keep hgrow hbaro hdegen haltInv (fun h => hbaroRv.symm.trans h) (fun _ h => hstate.trans h)⟩

end

/-- A command that writes a reading computes it from a frame or a block that it or an earlier command read. -/
theorem CommandPath.readingsGenuine {i : Instr} {s t : State} (hs : ReadingsGenuine s) (h : CommandPath s i t)
    (hgrow : ∀ e ∈ s.history, e ∈ t.history) : ReadingsGenuine t := by
  have ⟨hmag, hcal, hbaro⟩ := hs
  cases h with
  | waits | refused | nop | decoded | magStartFailed =>
    exact hs.keep hgrow (by simp) (by simp) (by simp) (by simp) (by simp) (by simp) (by simp) (by simp)
  | magStarted | magReadFailed =>
    exact ⟨hmag.keep hgrow rfl (by simp), hcal.keep hgrow rfl (by simp),
      hbaro.keep hgrow rfl rfl rfl (by simp) (by simp)⟩
  | magFrame answers b =>
    exact ⟨.inr ⟨b, by simp [magFrameRead], rfl⟩, hcal.keep hgrow rfl (by simp),
      hbaro.keep hgrow rfl rfl rfl (by simp) (by simp)⟩
  | initFailed | baroReadFailed =>
    exact ⟨hmag.keep hgrow rfl (by simp), hcal.keep hgrow rfl (by simp),
      hbaro.keep hgrow rfl rfl rfl (by simp) (by simp)⟩
  | configured =>
    have hstate : ∀ b : BaroState, configuredState b = .ready ↔ b = .ready := by
      intro b; cases b <;> decide
    exact ⟨hmag.keep hgrow rfl (by simp), hcal.keep hgrow rfl (hstate _).1,
      hbaro.keep hgrow rfl rfl rfl (by simp) (fun _ => (hstate _).2)⟩
  | calLoaded answers b =>
    exact ⟨hmag.keep hgrow rfl (by simp), fun _ => ⟨b, by simp [calBlockRead], calib_regs (calParse_inRange b)⟩,
      hbaro.keep hgrow rfl rfl rfl (by simp) (by simp)⟩
  | compensated hi hready adcT adcP answers history =>
    obtain ⟨b, hread, hparse⟩ := hcal hready
    exact ⟨hmag.keep hgrow rfl (by simp), hcal.keep hgrow rfl (by simp), fun _ => ⟨hready, b, adcT, adcP,
      compensate adcT adcP s.cal.calib, hgrow _ hread, by rw [compensate, hparse], by simp, by simp, by simp⟩⟩

theorem resetBlock_readingsGenuine (s : State) : ReadingsGenuine (resetBlock s) :=
  ⟨.inl ⟨rfl, rfl⟩, fun h => (by cases h), fun h => (by cases h)⟩

/-- Settles O42: the history only grows, and a reading is written with the bytes it comes from in it. -/
theorem stepKeepsReadingsGenuine : Obligations.StepKeepsReadingsGenuine := by
  intro s t hs hstep
  have hgrow : ∀ e ∈ s.history, e ∈ t.history := fun _ => step_history hstep
  cases step_path hstep with
  | quiet | accepted | dropped | cleared | illegal => exact hs.keep hgrow rfl rfl rfl rfl rfl rfl rfl rfl
  | command _ _ hexec =>
    have hturn : ReadingsGenuine (turnTaken s) := hs.keep (s := s) (t := turnTaken s) (fun _ h => h) rfl rfl rfl rfl rfl rfl rfl rfl
    exact (exec_path hexec).readingsGenuine hturn hgrow
  | reset => exact resetBlock_readingsGenuine _

/-! ### The flags describe the results -/

theorem pairValue_lo32_hi32 (x : F64) : pairValue (lo32 x) (hi32 x) = x := by
  apply BitVec.eq_of_toNat_eq
  have hx := x.isLt
  rw [pairValue, toNat_append_eq_add, lo32, hi32, extractLsb'_toNat_eq_digit, extractLsb'_toNat_eq_digit]
  omega

theorem FlagsDescribeResults.congr {s t : State} (h : FlagsDescribeResults s) (hbaro : t.baro = s.baro)
    (hdegen : t.status.degen = s.status.degen) (haltInv : t.status.altInv = s.status.altInv) : FlagsDescribeResults t := by
  obtain ⟨hboth, hdeg, halt⟩ := h
  exact ⟨by rwa [hdegen, haltInv], by rwa [hdegen, hbaro], by rwa [haltInv, hbaro]⟩

/-- A compensation's flags describe what it stores, by the two paths of the engine (44_compensation.md R246, R252). -/
theorem FlagsDescribeResults.of_compensation {t : State} {adcT adcP : BitVec 20} {c : Calib}
    (hbaro : t.baro = (compensate adcT adcP c).regs adcT adcP)
    (hdegen : t.status.degen = (compensate adcT adcP c).degenerate)
    (haltInv : t.status.altInv = (compensate adcT adcP c).altInvalid) : FlagsDescribeResults t := by
  have hdegenerate := compensateWith_of_degenerate (order := Config.squareOrder) (adcT := adcT) (adcP := adcP) (c := c)
    powConforming_powF64
  rw [← compensate] at hdegenerate
  refine ⟨fun ⟨hdeg, halt⟩ => ?both, fun hdeg => ?degenerate, fun halt => ?altInvalid⟩
  case both =>
    obtain ⟨-, -, hnot⟩ := hdegenerate (hdegen ▸ hdeg)
    exact Bool.false_ne_true (hnot.symm.trans (haltInv ▸ halt))
  case degenerate =>
    obtain ⟨hpressure, haltitude, -⟩ := hdegenerate (hdegen ▸ hdeg)
    rw [hbaro]
    exact ⟨(pairValue_lo32_hi32 _).trans hpressure, (pairValue_lo32_hi32 _).trans haltitude⟩
  case altInvalid =>
    have hinvalid : (compensate adcT adcP c).altInvalid = true := haltInv ▸ halt
    have haltitude : (compensate adcT adcP c).altitude = fZero := by
      rw [compensate] at hinvalid ⊢
      rw [compensateWith_altitude, hinvalid, if_pos rfl]
    have hnegative : fLt (compensate adcT adcP c).pressure fZero = true := by
      rw [compensate] at hinvalid ⊢
      rw [← compensateWith_altInvalid, hinvalid]
    obtain ⟨hnan, hneg⟩ := of_fLt_zero hnegative
    have hpress : pairValue t.baro.pressLo t.baro.pressHi = (compensate adcT adcP c).pressure := by
      rw [hbaro]
      exact pairValue_lo32_hi32 _
    rw [hpress]
    refine ⟨hnan, hneg, ?_⟩
    rw [hbaro]
    exact (pairValue_lo32_hi32 _).trans haltitude

theorem CommandPath.flagsDescribeResults {i : Instr} {s t : State} (hs : FlagsDescribeResults s) (h : CommandPath s i t) :
    FlagsDescribeResults t := by
  cases h with
  | compensated hi hready adcT adcP =>
    exact .of_compensation (adcT := adcT) (adcP := adcP) (c := s.cal.calib) (by simp) (by simp) (by simp)
  | waits | refused | nop | decoded | magStartFailed | magStarted | magReadFailed | magFrame | initFailed | configured |
      calLoaded | baroReadFailed => exact hs.congr (by simp) (by simp) (by simp)

theorem resetBlock_flagsDescribeResults (s : State) : FlagsDescribeResults (resetBlock s) :=
  ⟨by simp, by simp, by simp⟩

/-- Settles O43: the results and both flags are written together, by a compensation or a reset. -/
theorem stepKeepsFlagsDescribeResults : Obligations.StepKeepsFlagsDescribeResults := by
  intro s t hs hstep
  cases step_path hstep with
  | quiet | accepted | dropped | cleared | illegal => exact hs.congr rfl rfl rfl
  | command _ _ hexec => exact (exec_path hexec).flagsDescribeResults (hs.congr (t := turnTaken s) rfl rfl rfl)
  | reset => exact resetBlock_flagsDescribeResults _

/-- Settles O44: the state after power-on is one that the reset input leaves. -/
theorem resetMeetsTheInvariants : Obligations.ResetMeetsTheInvariants :=
  ⟨resetBlock_sequencerSound State.reset, resetBlock_registerFormats State.reset, resetBlock_readingsGenuine State.reset,
    resetBlock_flagsDescribeResults State.reset⟩

end Sys2Proof.Machine
